-- ==== Sys2Proof/Word.lean ====
section
/-! DEFINITION. The word types of the core and the names of its operand types (00_scope.md R6, R12).
Nothing here is a choice of the model: widths are the spec's parameters. -/

namespace Sys2Proof

/-- An 8-bit value: a register, a timer, a byte of memory, the immediate KK (R6 `XLEN`, `TIMER_WIDTH`). -/
abbrev Byte := BitVec 8

/-- A 16-bit address: `pc`, `I`, a stack entry (R6 `PC_WIDTH`, `I_WIDTH`; 10_state.md R28). -/
abbrev Addr := BitVec 16

/-- A 16-bit instruction word (R6 `ILEN`, 30_encoding.md R91). -/
abbrev Opcode := BitVec 16

/-- The number of a general register, the fields X and Y: 0 to 15 by construction (10_state.md R21). -/
abbrev Reg := Fin 16

/-- The row count N of DXYN, 0 to 15 (30_encoding.md R93). -/
abbrev RowCount := Fin 16

/-- The 12-bit absolute address NNN (30_encoding.md R93). -/
abbrev Nnn := BitVec 12

/-- Register `V[0xF]`, the only flag (10_state.md R22). -/
abbrev VF : Reg := 15

end Sys2Proof
end

