-- ==== Sys2Proof/Syntax.lean ====
section
/-! DEFINITION. The instructions: one constructor per row of spec/opcode_table.json, in its order
(30_encoding.md R100). Each carries exactly the operand fields of its format (R92); bits the dispatcher ignores
(R97) are not operands. -/

namespace Sys2Proof

/-- The 34 operations of the core. -/
inductive Instr where
  /-- 00E0 `CLS` (R190) -/
  | cls
  /-- 00EE `RET` (R121) -/
  | ret
  /-- 1NNN `JP NNN` (R122) -/
  | jp (nnn : Nnn)
  /-- 2NNN `CALL NNN` (R123) -/
  | call (nnn : Nnn)
  /-- 3XKK `SE VX, KK` (R124) -/
  | seImm (x : Reg) (kk : Byte)
  /-- 4XKK `SNE VX, KK` (R125) -/
  | sneImm (x : Reg) (kk : Byte)
  /-- 5XY0 `SE VX, VY` (R126) -/
  | seReg (x y : Reg)
  /-- 9XY0 `SNE VX, VY` (R127) -/
  | sneReg (x y : Reg)
  /-- 6XKK `LD VX, KK` (R140) -/
  | ldImm (x : Reg) (kk : Byte)
  /-- 7XKK `ADD VX, KK` (R141) -/
  | addImm (x : Reg) (kk : Byte)
  /-- 8XY0 `LD VX, VY` (R142) -/
  | ldReg (x y : Reg)
  /-- 8XY1 `OR VX, VY` (R143) -/
  | orReg (x y : Reg)
  /-- 8XY2 `AND VX, VY` (R144) -/
  | andReg (x y : Reg)
  /-- 8XY3 `XOR VX, VY` (R145) -/
  | xorReg (x y : Reg)
  /-- 8XY4 `ADD VX, VY` (R146) -/
  | addReg (x y : Reg)
  /-- 8XY5 `SUB VX, VY` (R147) -/
  | subReg (x y : Reg)
  /-- 8XY6 `SHR VX`; Y is encoded and unused (R148) -/
  | shr (x y : Reg)
  /-- 8XY7 `SUBN VX, VY` (R149) -/
  | subnReg (x y : Reg)
  /-- 8XYE `SHL VX`; Y is encoded and unused (R150) -/
  | shl (x y : Reg)
  /-- ANNN `LD I, NNN` (R170) -/
  | ldI (nnn : Nnn)
  /-- BNNN `JP V0, NNN` (R128) -/
  | jpV0 (nnn : Nnn)
  /-- CXKK `RND VX, KK` (R151) -/
  | rnd (x : Reg) (kk : Byte)
  /-- DXYN `DRW VX, VY, N` (R191) -/
  | drw (x y : Reg) (n : RowCount)
  /-- EX9E `SKP VX` (R210) -/
  | skp (x : Reg)
  /-- EXA1 `SKNP VX` (R211) -/
  | sknp (x : Reg)
  /-- FX07 `LD VX, DT` (R212) -/
  | ldVxDt (x : Reg)
  /-- FX15 `LD DT, VX` (R214) -/
  | ldDtVx (x : Reg)
  /-- FX18 `LD ST, VX` (R215) -/
  | ldStVx (x : Reg)
  /-- FX0A `LD VX, K` (R213) -/
  | ldVxK (x : Reg)
  /-- FX1E `ADD I, VX` (R171) -/
  | addI (x : Reg)
  /-- FX29 `LD F, VX` (R172) -/
  | ldF (x : Reg)
  /-- FX33 `LD B, VX` (R173) -/
  | ldB (x : Reg)
  /-- FX55 `LD [I], VX` (R174) -/
  | ldMemVx (x : Reg)
  /-- FX65 `LD VX, [I]` (R175) -/
  | ldVxMem (x : Reg)
  deriving DecidableEq, Repr

end Sys2Proof
end

