-- ==== Sys2Proof/WellFormed.lean ====
section
/-! DEFINITION. Well-formedness: the operand ranges of 30_encoding.md R93 as checks on plain numbers.
The operand types of Instr already hold each bound, so every term of Instr passes (Laws/PerInstr.lean); the checks
say what the bounds are, and refuse a number outside them. -/

namespace Sys2Proof

/-- X, Y: a register number 0 to 15 (R93; 10_state.md R21). -/
def regInRange (r : Nat) : Bool := r ≤ 15

/-- KK: an immediate byte 0 to 255 (R93). -/
def immInRange (k : Nat) : Bool := k ≤ 255

/-- NNN: an address 0 to 0xFFF (R93). -/
def addrInRange (a : Nat) : Bool := a ≤ 0xFFF

/-- N: a row count 0 to 15 (R93). -/
def rowsInRange (n : Nat) : Bool := n ≤ 15

/-- Every operand of the instruction is in the range its field admits. -/
def Instr.wellFormed : Instr → Bool
  | .cls | .ret => true
  | .jp nnn | .call nnn | .ldI nnn | .jpV0 nnn => addrInRange nnn.toNat
  | .seImm x kk | .sneImm x kk | .ldImm x kk | .addImm x kk | .rnd x kk => regInRange x && immInRange kk.toNat
  | .seReg x y | .sneReg x y | .ldReg x y | .orReg x y | .andReg x y | .xorReg x y | .addReg x y | .subReg x y
  | .shr x y | .subnReg x y | .shl x y => regInRange x && regInRange y
  | .drw x y n => regInRange x && regInRange y && rowsInRange n
  | .skp x | .sknp x | .ldVxDt x | .ldDtVx x | .ldStVx x | .ldVxK x | .addI x | .ldF x | .ldB x | .ldMemVx x
  | .ldVxMem x => regInRange x

end Sys2Proof
end

