-- ==== Sys2Proof/Decode.lean ====
section
/-! DEFINITION. Decoding by group and secondary key (30_encoding.md R94 to R98), then the encoder from the
canonical patterns and the mask and match columns of R100. -/

namespace Sys2Proof

/-- Why bytes are not one of the 34 operations. -/
inductive DecodeError where
  /-- The word has no defined operation: UNKNOWN (R98). The step runs it as a diagnostic no-op (R99). Not unsafe. -/
  | unknownOpcode (w : Opcode)
  /-- Fewer than two bytes were given. The step never raises it: a fetch reads both bytes (20_memory.md R62). Safe. -/
  | truncated (given : Nat)
  deriving DecidableEq, Repr

/-- The top nibble, `opcode[15:12]` (00_scope.md R10). -/
def groupOf (w : Opcode) : BitVec 4 := w.extractLsb' 12 4

/-- `X = opcode[11:8]` (00_scope.md R12). -/
def fieldX (w : Opcode) : Reg := (w.extractLsb' 8 4).toFin

/-- `Y = opcode[7:4]` (00_scope.md R12). -/
def fieldY (w : Opcode) : Reg := (w.extractLsb' 4 4).toFin

/-- `N = opcode[3:0]` (00_scope.md R12). -/
def fieldN (w : Opcode) : RowCount := (w.extractLsb' 0 4).toFin

/-- `KK = opcode[7:0]` (00_scope.md R12). -/
def fieldKK (w : Opcode) : Byte := w.extractLsb' 0 8

/-- `NNN = opcode[11:0]` (00_scope.md R12). -/
def fieldNNN (w : Opcode) : Nnn := w.extractLsb' 0 12

/-- The low nibble, the secondary key of groups 0x0, 0x8 and 0xE (R95). -/
def lowNibble (w : Opcode) : BitVec 4 := w.extractLsb' 0 4

/-- Group 0x0, by low nibble (R95). -/
def decodeGroup0 (w : Opcode) : Except DecodeError Instr :=
  match lowNibble w with
  | 0x0#4 => .ok .cls
  | 0xE#4 => .ok .ret
  | _ => .error (.unknownOpcode w)

/-- Group 0x8, by low nibble (R95). -/
def decodeGroup8 (w : Opcode) : Except DecodeError Instr :=
  match lowNibble w with
  | 0x0#4 => .ok (.ldReg (fieldX w) (fieldY w))
  | 0x1#4 => .ok (.orReg (fieldX w) (fieldY w))
  | 0x2#4 => .ok (.andReg (fieldX w) (fieldY w))
  | 0x3#4 => .ok (.xorReg (fieldX w) (fieldY w))
  | 0x4#4 => .ok (.addReg (fieldX w) (fieldY w))
  | 0x5#4 => .ok (.subReg (fieldX w) (fieldY w))
  | 0x6#4 => .ok (.shr (fieldX w) (fieldY w))
  | 0x7#4 => .ok (.subnReg (fieldX w) (fieldY w))
  | 0xE#4 => .ok (.shl (fieldX w) (fieldY w))
  | _ => .error (.unknownOpcode w)

/-- Group 0xE, by low nibble (R95). -/
def decodeGroupE (w : Opcode) : Except DecodeError Instr :=
  match lowNibble w with
  | 0x1#4 => .ok (.sknp (fieldX w))
  | 0xE#4 => .ok (.skp (fieldX w))
  | _ => .error (.unknownOpcode w)

/-- Group 0xF, by low byte (R95). -/
def decodeGroupF (w : Opcode) : Except DecodeError Instr :=
  match fieldKK w with
  | 0x07#8 => .ok (.ldVxDt (fieldX w))
  | 0x0A#8 => .ok (.ldVxK (fieldX w))
  | 0x15#8 => .ok (.ldDtVx (fieldX w))
  | 0x18#8 => .ok (.ldStVx (fieldX w))
  | 0x1E#8 => .ok (.addI (fieldX w))
  | 0x29#8 => .ok (.ldF (fieldX w))
  | 0x33#8 => .ok (.ldB (fieldX w))
  | 0x55#8 => .ok (.ldMemVx (fieldX w))
  | 0x65#8 => .ok (.ldVxMem (fieldX w))
  | _ => .error (.unknownOpcode w)

/-- `Decode(w)`: total on the 65536 opcode values; the first level of dispatch is the top nibble (R94, R96). -/
def decode (w : Opcode) : Except DecodeError Instr :=
  match groupOf w with
  | 0x0#4 => decodeGroup0 w
  | 0x1#4 => .ok (.jp (fieldNNN w))
  | 0x2#4 => .ok (.call (fieldNNN w))
  | 0x3#4 => .ok (.seImm (fieldX w) (fieldKK w))
  | 0x4#4 => .ok (.sneImm (fieldX w) (fieldKK w))
  | 0x5#4 => .ok (.seReg (fieldX w) (fieldY w))
  | 0x6#4 => .ok (.ldImm (fieldX w) (fieldKK w))
  | 0x7#4 => .ok (.addImm (fieldX w) (fieldKK w))
  | 0x8#4 => decodeGroup8 w
  | 0x9#4 => .ok (.sneReg (fieldX w) (fieldY w))
  | 0xA#4 => .ok (.ldI (fieldNNN w))
  | 0xB#4 => .ok (.jpV0 (fieldNNN w))
  | 0xC#4 => .ok (.rnd (fieldX w) (fieldKK w))
  | 0xD#4 => .ok (.drw (fieldX w) (fieldY w) (fieldN w))
  | 0xE#4 => decodeGroupE w
  | _ => decodeGroupF w

/-- Two bytes make a word, the byte at the lower address the high one (20_memory.md R61). -/
def wordOfBytes (hi lo : Byte) : Opcode := (hi.setWidth 16 <<< 8) ||| lo.setWidth 16

/-- The high byte of a word, stored at the lower address (20_memory.md R61). -/
def highByte (w : Opcode) : Byte := w.extractLsb' 8 8

/-- The low byte of a word, stored at the higher address (20_memory.md R61). -/
def lowByte (w : Opcode) : Byte := w.extractLsb' 0 8

/-- Decoding of a byte stream: the instruction and the bytes after it. Every instruction is two bytes (R91). -/
def decodeBytes : List Byte → Except DecodeError (Instr × List Byte)
  | hi :: lo :: rest =>
    match decode (wordOfBytes hi lo) with
    | .ok i => .ok (i, rest)
    | .error e => .error e
  | short => .error (.truncated short.length)

/-- Four nibbles, the top one first, as a word (00_scope.md R10). -/
def packNibbles (a b c d : BitVec 4) : Opcode :=
  (a.setWidth 16 <<< 12) ||| (b.setWidth 16 <<< 8) ||| (c.setWidth 16 <<< 4) ||| d.setWidth 16

/-- The nibble that names a register. -/
def regBits (x : Reg) : BitVec 4 := BitVec.ofFin x

/-- Format `NNN` (R92). -/
def packNNN (g : BitVec 4) (nnn : Nnn) : Opcode :=
  packNibbles g (nnn.extractLsb' 8 4) (nnn.extractLsb' 4 4) (nnn.extractLsb' 0 4)

/-- Format `XKK`, and format `X` with the low byte as its key (R92). -/
def packXKK (g : BitVec 4) (x : Reg) (kk : Byte) : Opcode :=
  packNibbles g (regBits x) (kk.extractLsb' 4 4) (kk.extractLsb' 0 4)

/-- Formats `XY` and `XYN` (R92). -/
def packXYN (g : BitVec 4) (x y : Reg) (n : BitVec 4) : Opcode := packNibbles g (regBits x) (regBits y) n

/-- The canonical word of an instruction (the second column of R100). -/
def encode : Instr → Opcode
  | .cls => 0x00E0
  | .ret => 0x00EE
  | .jp nnn => packNNN 0x1 nnn
  | .call nnn => packNNN 0x2 nnn
  | .seImm x kk => packXKK 0x3 x kk
  | .sneImm x kk => packXKK 0x4 x kk
  | .seReg x y => packXYN 0x5 x y 0x0
  | .sneReg x y => packXYN 0x9 x y 0x0
  | .ldImm x kk => packXKK 0x6 x kk
  | .addImm x kk => packXKK 0x7 x kk
  | .ldReg x y => packXYN 0x8 x y 0x0
  | .orReg x y => packXYN 0x8 x y 0x1
  | .andReg x y => packXYN 0x8 x y 0x2
  | .xorReg x y => packXYN 0x8 x y 0x3
  | .addReg x y => packXYN 0x8 x y 0x4
  | .subReg x y => packXYN 0x8 x y 0x5
  | .shr x y => packXYN 0x8 x y 0x6
  | .subnReg x y => packXYN 0x8 x y 0x7
  | .shl x y => packXYN 0x8 x y 0xE
  | .ldI nnn => packNNN 0xA nnn
  | .jpV0 nnn => packNNN 0xB nnn
  | .rnd x kk => packXKK 0xC x kk
  | .drw x y n => packXYN 0xD x y (regBits n)
  | .skp x => packXKK 0xE x 0x9E
  | .sknp x => packXKK 0xE x 0xA1
  | .ldVxDt x => packXKK 0xF x 0x07
  | .ldDtVx x => packXKK 0xF x 0x15
  | .ldStVx x => packXKK 0xF x 0x18
  | .ldVxK x => packXKK 0xF x 0x0A
  | .addI x => packXKK 0xF x 0x1E
  | .ldF x => packXKK 0xF x 0x29
  | .ldB x => packXKK 0xF x 0x33
  | .ldMemVx x => packXKK 0xF x 0x55
  | .ldVxMem x => packXKK 0xF x 0x65

/-- The bytes of an instruction as memory holds them, lower address first (20_memory.md R61). -/
def encodeBytes (i : Instr) : List Byte := [highByte (encode i), lowByte (encode i)]

/-- The `mask` column of R100. -/
def Instr.mask : Instr → Opcode
  | .cls | .ret | .ldReg _ _ | .orReg _ _ | .andReg _ _ | .xorReg _ _ | .addReg _ _ | .subReg _ _ | .shr _ _
  | .subnReg _ _ | .shl _ _ | .skp _ | .sknp _ => 0xF00F
  | .jp _ | .call _ | .seImm _ _ | .sneImm _ _ | .seReg _ _ | .sneReg _ _ | .ldImm _ _ | .addImm _ _ | .ldI _
  | .jpV0 _ | .rnd _ _ | .drw _ _ _ => 0xF000
  | .ldVxDt _ | .ldDtVx _ | .ldStVx _ | .ldVxK _ | .addI _ | .ldF _ | .ldB _ | .ldMemVx _ | .ldVxMem _ => 0xF0FF

/-- The `match` column of R100. -/
def Instr.matchBits : Instr → Opcode
  | .cls => 0x0000
  | .ret => 0x000E
  | .jp _ => 0x1000
  | .call _ => 0x2000
  | .seImm _ _ => 0x3000
  | .sneImm _ _ => 0x4000
  | .seReg _ _ => 0x5000
  | .sneReg _ _ => 0x9000
  | .ldImm _ _ => 0x6000
  | .addImm _ _ => 0x7000
  | .ldReg _ _ => 0x8000
  | .orReg _ _ => 0x8001
  | .andReg _ _ => 0x8002
  | .xorReg _ _ => 0x8003
  | .addReg _ _ => 0x8004
  | .subReg _ _ => 0x8005
  | .shr _ _ => 0x8006
  | .subnReg _ _ => 0x8007
  | .shl _ _ => 0x800E
  | .ldI _ => 0xA000
  | .jpV0 _ => 0xB000
  | .rnd _ _ => 0xC000
  | .drw _ _ _ => 0xD000
  | .skp _ => 0xE00E
  | .sknp _ => 0xE001
  | .ldVxDt _ => 0xF007
  | .ldDtVx _ => 0xF015
  | .ldStVx _ => 0xF018
  | .ldVxK _ => 0xF00A
  | .addI _ => 0xF01E
  | .ldF _ => 0xF029
  | .ldB _ => 0xF033
  | .ldMemVx _ => 0xF055
  | .ldVxMem _ => 0xF065

/-- The word a table row's `nbits` and `w` stand for: bit 0 of `w` is the least significant bit of the first (and only)
word, and every bit at or above `nbits` is 0. Assumption log 10. -/
def tableWord (nbits w : Nat) : Opcode := BitVec.ofNat 16 (w % 2 ^ nbits)

/-- The instruction the decoder reads from a table row's word, laid out in memory order first (big-endian). -/
def decodeTableWord (nbits w : Nat) : Option Instr :=
  match decodeBytes [highByte (tableWord nbits w), lowByte (tableWord nbits w)] with
  | .ok (i, _) => some i
  | .error _ => none

end Sys2Proof
end

