-- ==== Sys2Proof/Config.lean ====
section
/-! DEFINITION. The fixed parameters of this hardware (00_scope.md R6) and its one free value.
The parameters whose values the source leaves open (R7) are in Machine/Params.lean. -/

namespace Sys2Proof.Config

/-- `MEM_SIZE`: addresses 0x000 to 0xFFF (R6). -/
abbrev memSize : Nat := 4096

/-- `PROG_BASE`: where the program space starts and Load puts a program (R6). -/
abbrev progBase : Nat := 0x200

/-- `ROM_MAX` = 4096 - 0x200 (R6). -/
abbrev romMax : Nat := 3584

/-- `FONT_BASE` (R6). -/
abbrev fontBase : Nat := 0x050

/-- `FONT_BYTES` = 16 glyphs of 5 bytes (R6). -/
abbrev fontBytes : Nat := 80

/-- `STACK_DEPTH` (R6). -/
abbrev stackDepth : Nat := 16

/-- FREE VALUE (10_state.md R36, decision D11: 'any value 0 to 255, under no law'): the random byte of a CXKK for which
the host has presented none. It has no body, so nothing can be proved of any of its values. See assumption log 2. -/
opaque freeRandomByte : Nat → Byte

end Sys2Proof.Config
end

