-- ==== Sys2Proof/Machine/Params.lean ====
section
/-! DEFINITION. The parameters the source leaves open (00_scope.md R7) as one record, which State carries so that a claim
quantifies over them, and the default the spec decides for each (92_eei_decisions.md). Every default is a definition of
its own, one a later test could show wrong. -/

namespace Sys2Proof.Config

/-! ### The defaults -/

/-- `RESET_PC`, the value of `pc` after reset (decision D2, 90_conflicts.md C6). Assumption log 7. -/
def resetPc : Addr := 0x0200

/-- `SPRITE_MSB_FIRST`: bit 7 of a sprite byte is column 0 (decision D8, 43_display.md R192). Assumption log 8. -/
def spriteMsbFirst : Bool := true

/-- `FONT_ROM`: glyph d is the 5 bytes from index `5*d` (decision D9, 10_state.md R46). Assumption log 6. -/
def fontRom : List Byte :=
  [0xF0, 0x90, 0x90, 0x90, 0xF0] ++ [0x20, 0x60, 0x20, 0x20, 0x70] ++
  [0xF0, 0x10, 0xF0, 0x80, 0xF0] ++ [0xF0, 0x10, 0xF0, 0x10, 0xF0] ++
  [0x90, 0x90, 0xF0, 0x10, 0x10] ++ [0xF0, 0x80, 0xF0, 0x10, 0xF0] ++
  [0xF0, 0x80, 0xF0, 0x90, 0xF0] ++ [0xF0, 0x10, 0x20, 0x40, 0x40] ++
  [0xF0, 0x90, 0xF0, 0x90, 0xF0] ++ [0xF0, 0x90, 0xF0, 0x10, 0xF0] ++
  [0xF0, 0x90, 0xF0, 0x90, 0x90] ++ [0xE0, 0x90, 0xE0, 0x90, 0xE0] ++
  [0xF0, 0x80, 0x80, 0x80, 0xF0] ++ [0xE0, 0x90, 0x90, 0x90, 0xE0] ++
  [0xF0, 0x80, 0xF0, 0x80, 0xF0] ++ [0xF0, 0x80, 0xF0, 0x80, 0x80]

/-- `MEM_RESERVED_INIT`: the reserved bytes outside the font after PowerOn are all 0 (decision D10), so none is listed.
Assumption log 6. -/
def memReservedInit : List Byte := []

/-- `SP_WIDTH` (decision D17). Assumption log 5. -/
def spWidth : Nat := 5

/-- The code of FetchOutOfBounds (decision D4, 60_exceptions.md R231). -/
def codeFetchOutOfBounds : BitVec 3 := 1

/-- The code of DataOutOfBounds (decision D4, 60_exceptions.md R231). -/
def codeDataOutOfBounds : BitVec 3 := 2

/-- The code of StackOverflow (decision D4, 60_exceptions.md R231). -/
def codeStackOverflow : BitVec 3 := 3

/-- The code of StackUnderflow (decision D4, 60_exceptions.md R231). -/
def codeStackUnderflow : BitVec 3 := 4

/-- The code of KeyIndexOutOfRange (decision D4, 60_exceptions.md R231). -/
def codeKeyIndexOutOfRange : BitVec 3 := 5

/-! ### The parameters -/

/-- The fault cause codes (R7, decision D4): one for each fault, none of them the 0 of a running core, no two alike. -/
structure FaultCodes where
  /-- FetchOutOfBounds -/
  fetchOutOfBounds : BitVec 3 := codeFetchOutOfBounds
  /-- DataOutOfBounds -/
  dataOutOfBounds : BitVec 3 := codeDataOutOfBounds
  /-- StackOverflow -/
  stackOverflow : BitVec 3 := codeStackOverflow
  /-- StackUnderflow -/
  stackUnderflow : BitVec 3 := codeStackUnderflow
  /-- KeyIndexOutOfRange -/
  keyIndexOutOfRange : BitVec 3 := codeKeyIndexOutOfRange
  /-- 0 means running, and a code names one fault -/
  distinct : decide ([0, fetchOutOfBounds, dataOutOfBounds, stackOverflow, stackUnderflow, keyIndexOutOfRange].Nodup) = true
    := by decide
  deriving DecidableEq, Repr

/-- The parameters of R7 ('Open parameters' of 92_eei_decisions.md). The random byte is an input of each Step and no
parameter. No operation writes them. Assumption log 19. -/
structure Params where
  /-- `RESET_PC` -/
  resetPc : Addr
  /-- `FONT_ROM` -/
  fontRom : Vector Byte 80
  /-- `MEM_RESERVED_INIT`, from address 0 on; an address the list does not reach holds 0 -/
  memReservedInit : List Byte
  /-- `SPRITE_MSB_FIRST` -/
  spriteMsbFirst : Bool
  /-- `SP_WIDTH` -/
  spWidth : Nat
  /-- the 17 legal values of the stack pointer fit in it (10_state.md R29) -/
  spHolds : decide (stackDepth < 2 ^ spWidth) = true
  /-- the fault cause codes -/
  faultCodes : FaultCodes
  deriving DecidableEq, Repr

/-- Every parameter at the default the spec decides. -/
def defaults : Params where
  resetPc := resetPc
  fontRom := ⟨fontRom.toArray, rfl⟩
  memReservedInit := memReservedInit
  spriteMsbFirst := spriteMsbFirst
  spWidth := spWidth
  spHolds := rfl
  faultCodes := {}

/-- What PowerOn leaves in the byte at address `a` (10_state.md R45, 70_reset_and_hazards.md R270, 20_memory.md R68):
the font, the reserved bytes around it, and 0 from the program space on. -/
def Params.initialByte (p : Params) (a : Nat) : Byte :=
  if a < progBase then
    if fontBase ≤ a ∧ a < fontBase + fontBytes then p.fontRom.toList.getD (a - fontBase) 0 else p.memReservedInit.getD a 0
  else 0

/-- What an address that memory does not list reads as: what PowerOn leaves there under the defaults. -/
def initialByte (a : Nat) : Byte := defaults.initialByte a

end Sys2Proof.Config
end

