-- ==== Sys2Proof/Machine/State.lean ====
section
/-! DEFINITION. The state of the core as plain data (10_state.md R20, R40), the inputs and outputs of a Step that the
host's interface leaves no other place for, the parameters, and the state after PowerOn (R45). -/

namespace Sys2Proof.Machine

/-- Memory, as the list of the bytes that differ from `Config.initialByte`, addresses strictly rising
(10_state.md R33). -/
abbrev Memory := List Host.Cell

/-- The display: row y of 64 pixels, pixel x of it as bit x. The linear cell of R34 is `x + 64*y`. -/
abbrev Display := Vector (BitVec 64) 32

/-- The fatal faults of the core (60_exceptions.md R231). Taking one is a NEXT state (R233), not a `Fault` of the step. -/
inductive FaultCause where
  /-- Raised by the fetch of any Step whose `pc` is above 0xFFE (R232). -/
  | fetchOutOfBounds
  /-- Raised by DXYN, FX33, FX55, FX65 that would touch an address above 0xFFF (R234). -/
  | dataOutOfBounds
  /-- Raised by 2NNN on a full stack (R236). -/
  | stackOverflow
  /-- Raised by 00EE on an empty stack (R237). -/
  | stackUnderflow
  /-- Raised by EX9E, EXA1 with a key index above 15 (R235). -/
  | keyIndexOutOfRange
  deriving DecidableEq, Repr

/-- The core's state. The first thirteen fields are the spec's; `key`, `rnd`, `draws` and `diags` are the inputs and
outputs of a Step, which the spec keeps outside State (R35, R36, R240); `config` is the core's configuration (00_scope.md
R7). -/
structure State where
  /-- `V[0..15]` (R21) -/
  v : Vector Byte 16
  /-- program counter (R23) -/
  pc : Addr
  /-- index register `I` (R26) -/
  i : Addr
  /-- `current_opcode` (R27) -/
  opreg : Opcode
  /-- `stack[0..15]`, stale entries included (R28) -/
  stack : Vector Addr 16
  /-- the number of return addresses held, 0 to 16 (R29). Assumption log 5. -/
  sp : Fin 17
  /-- delay timer (R30) -/
  dt : Byte
  /-- sound timer (R31) -/
  st : Byte
  /-- the bytes of memory (R33) -/
  mem : Memory
  /-- the pixels (R34) -/
  display : Display
  /-- 0 while running, else the code of the fault that halted the core (R37) -/
  faultCause : BitVec 3
  /-- address of the faulting instruction (R37) -/
  faultPc : Addr
  /-- the offending value (R37) -/
  faultInfo : Addr
  /-- the keypad input: bit k is `Key[k]` (R35). Assumption log 1. -/
  key : BitVec 16
  /-- the random byte the host has presented and no CXKK has taken, if any (R36). Assumption log 2. -/
  rnd : Option Byte
  /-- which free random byte is next; the model's own counter. Assumption log 2. -/
  draws : Nat
  /-- the UnknownOpcode diagnostics emitted so far, newest first (60_exceptions.md R240). Assumption log 3. -/
  diags : List Opcode
  /-- the parameters of this core (00_scope.md R7): configuration, which no operation writes. Assumption log 19. -/
  config : Config.Params
  deriving DecidableEq, Repr

/-- Reasons for a step to have no successor: there is none. 'Nothing in this spec is treated as `stuck`: every state has a
successor under Step' (93_implementation_defined.md): the core's own faults are next states. Assumption log 11. -/
inductive Fault where
  deriving DecidableEq, Repr

/-- Reasons for the model to give no meaning. -/
inductive Refusal where
  /-- Raised by an arm of exec whose instruction has no meaning yet; no arm does. Safe: nothing is proved of it. -/
  | notModelled (mnemonic : String)
  deriving DecidableEq, Repr

/-- The state after PowerOn, which performs Reset (10_state.md R45, 70_reset_and_hazards.md R270), with every parameter at
its default. Memory lists nothing, so every byte reads as PowerOn leaves it. -/
def State.reset : State where
  v := Vector.replicate 16 0
  pc := Config.defaults.resetPc
  i := 0
  opreg := 0
  stack := Vector.replicate 16 0
  sp := 0
  dt := 0
  st := 0
  mem := []
  display := Vector.replicate 32 0
  faultCause := 0
  faultPc := 0
  faultInfo := 0
  key := 0
  rnd := none
  draws := 0
  diags := []
  config := Config.defaults

end Sys2Proof.Machine
end

