-- ==== Sys2Proof/Machine/Ops.lean ====
section
/-! DEFINITION. The named operations over registers, memory and the stack, taking a fatal fault, and the stages that
stand around every instruction. There is no return from a fault: only the host leaves the halted state (R239). -/

namespace Sys2Proof.Machine

/-! ### Memory (20_memory.md) -/

/-- The byte at address `a`: what was last written there, or else `Config.initialByte`. -/
def Memory.read : Memory → Nat → Byte
  | [], a => Config.initialByte a
  | c :: m, a => if c.1 = a then c.2 else Memory.read m a

/-- Puts a cell into its place in the rising order of addresses. -/
def Memory.insertCell (c : Host.Cell) : Memory → Memory
  | [] => [c]
  | d :: m => if c.1 < d.1 then c :: d :: m else d :: Memory.insertCell c m

/-- The cells at every other address. -/
def Memory.erase (m : Memory) (a : Nat) : Memory := m.filter fun c => c.1 != a

/-- Stores byte `b` at address `a`, keeping the canonical form: a byte equal to `Config.initialByte` is not listed. -/
def Memory.write (m : Memory) (a : Nat) (b : Byte) : Memory :=
  if b = Config.initialByte a then m.erase a else Memory.insertCell (a, b) (m.erase a)

/-- The canonical form: addresses strictly rising and inside the 4096 bytes, no byte equal to
`Config.initialByte`. -/
def Memory.wf (m : Memory) : Bool :=
  decide (m.Pairwise fun c d => c.1 < d.1) && m.all fun c => decide (c.1 < Config.memSize) && c.2 ≠ Config.initialByte c.1

/-- Stores the bytes in ascending order from `base` (Load, 70_reset_and_hazards.md R273). -/
def Memory.writeBytes (m : Memory) (base : Nat) : List Byte → Memory
  | [] => m
  | b :: bs => Memory.writeBytes (m.write base b) (base + 1) bs

/-! ### Registers, stack, inputs and outputs -/

/-- `V[x]` (10_state.md R21; no register is hardwired). -/
def State.reg (s : State) (x : Reg) : Byte := s.v[x]

/-- `V[x] <- b`. -/
def State.setReg (s : State) (x : Reg) (b : Byte) : State := { s with v := s.v.set x b }

/-- `pc <- a`. -/
def State.setPc (s : State) (a : Addr) : State := { s with pc := a }

/-- `I <- a`. -/
def State.setIndex (s : State) (a : Addr) : State := { s with i := a }

/-- `DT <- b`. -/
def State.setDelay (s : State) (b : Byte) : State := { s with dt := b }

/-- `ST <- b`. -/
def State.setSound (s : State) (b : Byte) : State := { s with st := b }

/-- Replaces the memory. -/
def State.setMem (s : State) (m : Memory) : State := { s with mem := m }

/-- Replaces the display. -/
def State.setDisplay (s : State) (d : Display) : State := { s with display := d }

/-- `stack[sp] <- a; sp <- sp + 1`, for a stack that is not full (40_control_flow.md R123). -/
def State.push (s : State) (a : Addr) (h : s.sp.val < 16) : State :=
  { s with stack := s.stack.set s.sp.val a h, sp := ⟨s.sp.val + 1, by omega⟩ }

/-- The entry a return pops, `stack[sp-1]` (40_control_flow.md R121). -/
def State.top (s : State) (h : 0 < s.sp.val) : Addr := s.stack[s.sp.val - 1]'(by have := s.sp.isLt; omega)

/-- `sp <- sp - 1`; the popped entry is not cleared (10_state.md R28). -/
def State.drop (s : State) : State := { s with sp := ⟨s.sp.val - 1, by have := s.sp.isLt; omega⟩ }

/-- The stack pointer as the register of `SP_WIDTH` bits it is (10_state.md R29, R40; 00_scope.md R7). -/
def State.spBits (s : State) : BitVec s.config.spWidth := BitVec.ofNat _ s.sp.val

/-- `Key[k]` (10_state.md R35). -/
def State.keyDown (s : State) (k : Nat) : Bool := s.key.getLsbD k

/-- `Rnd()`: the byte the host presented for this Step, or else a free byte (10_state.md R36). -/
def State.randomByte (s : State) : Byte :=
  match s.rnd with
  | some b => b
  | none => Config.freeRandomByte s.draws

/-- One draw is taken (41_register_alu.md R151): the presented byte is used up, and the next free byte is another one. -/
def State.takeDraw (s : State) : State := { s with rnd := none, draws := s.draws + 1 }

/-- `Diag(UnknownOpcode, w)` (60_exceptions.md R240). -/
def State.emitDiag (s : State) (w : Opcode) : State := { s with diags := w :: s.diags }

/-! ### Taking a fatal fault (60_exceptions.md) -/

/-- `fault_cause` code of each fault (R231), a parameter of the core (00_scope.md R7). -/
def State.code (s : State) : FaultCause → BitVec 3
  | .fetchOutOfBounds => s.config.faultCodes.fetchOutOfBounds
  | .dataOutOfBounds => s.config.faultCodes.dataOutOfBounds
  | .stackOverflow => s.config.faultCodes.stackOverflow
  | .stackUnderflow => s.config.faultCodes.stackUnderflow
  | .keyIndexOutOfRange => s.config.faultCodes.keyIndexOutOfRange

/-- The core is halted: `fault_cause != 0` (R233, 10_state.md R37). -/
def State.halted (s : State) : Bool := s.faultCause != 0

/-- Fault entry (R233) for the instruction at address `a`: `pc` points at it, the three fault registers are set, and
nothing else is written. The one way a fault is taken. -/
def State.enterFault (s : State) (cause : FaultCause) (info a : Addr) : State :=
  { s with pc := a, faultCause := s.code cause, faultPc := a, faultInfo := info }

/-- `raise F(info)` in the execute stage, where `pc` has been advanced by 2 and nothing else has been written
(every Operation checks before it writes). Assumption log 4. -/
def State.raise (s : State) (cause : FaultCause) (info : Addr) : State := s.enterFault cause info (s.pc - 2)

/-! ### The stages around the execute stage (30_encoding.md R90) -/

/-- `Fetch(pc)` (20_memory.md R62): two bytes, big-endian, none when `pc > 0xFFE`. -/
def fetchWord (s : State) : Option Opcode :=
  if s.pc.toNat > 0xFFE then none
  else some (wordOfBytes (s.mem.read s.pc.toNat) (s.mem.read (s.pc.toNat + 1)))

/-- Stage 2, Advance: `pc <- pc + 2`. -/
def State.advance (s : State) : State := { s with pc := s.pc + 2 }

/-- A timer loses 1, floor 0 (10_state.md R32). -/
def tickDown (b : Byte) : Byte := if b = 0 then 0 else b - 1

/-- Stage 5, `Tick()` (10_state.md R32). -/
def State.tick (s : State) : State := { s with dt := tickDown s.dt, st := tickDown s.st }

/-- The end of a Step that fetched `w`, after its execute stage: a Step that raised a fault ends as it is (no tick, the
old opcode kept: R233, R27), any other holds `w` in `opreg` and ticks. Assumption log 4. -/
def State.retire (s : State) (w : Opcode) : State :=
  if s.halted then s else { s with opreg := w }.tick

/-- The execute stage of UNKNOWN (30_encoding.md R99): the diagnostic, nothing else. -/
def execUnknown (w : Opcode) (s : State) : Host.Outcome State Fault Refusal := .next (s.emitDiag w)

/-- What the host reads of an outcome that is a next state. -/
def nextState : Host.Outcome State Fault Refusal → Option State
  | .next s => some s
  | .fault _ => none
  | .refused _ => none

end Sys2Proof.Machine
end

