-- ==== Sys2Proof/Machine/Operands.lean ====
section
/-! DEFINITION. The operand forms: immediates widened to 16 bits (30_encoding.md R93), register-indirect data
addresses through `I` with their one bounds check (42_index_memory.md R176, 20_memory.md R66), key indices and the
skip (40_control_flow.md R120). -/

namespace Sys2Proof.Machine

/-- `zext_16` of an address field (R93). -/
def zextNnn (nnn : Nnn) : Addr := nnn.setWidth 16

/-- `zext_16` of a register value. -/
def zextByte (b : Byte) : Addr := b.setWidth 16

/-- Effective address `I + k`, an unbounded sum: no wrap at 0xFFFF or 0xFFF (20_memory.md R66). -/
def State.dataAddr (s : State) (k : Nat) : Nat := s.i.toNat + k

/-- The `len` bytes from `I` all lie in memory; no byte at all always does (20_memory.md R66). -/
def State.rangeInMemory (s : State) (len : Nat) : Bool := len = 0 || s.dataAddr (len - 1) ≤ 0xFFF

/-- The lowest offending address, `max(I, 0x1000)` (20_memory.md R66). -/
def State.firstOutside (s : State) : Addr := if s.i.toNat < 0x1000 then 0x1000 else s.i

/-- A data access of `len` bytes from `I`: the effect `t` when all of them lie in memory, else DataOutOfBounds and no
access at all (20_memory.md R66). -/
def State.withData (s : State) (len : Nat) (t : State) : Host.Outcome State Fault Refusal :=
  if s.rangeInMemory len then .next t else .next (s.raise .dataOutOfBounds s.firstOutside)

/-- A key named by a register value: `f` of its level, else KeyIndexOutOfRange (44_keypad_timers.md R210, R211). -/
def State.withKey (s : State) (k : Byte) (f : Bool → State) : Host.Outcome State Fault Refusal :=
  if k.toNat > 15 then .next (s.raise .keyIndexOutOfRange (zextByte k)) else .next (f (s.keyDown k.toNat))

/-- `if c then pc <- pc + 2` (40_control_flow.md R120 (b)). -/
def State.skipIf (s : State) (c : Bool) : State := if c then s.setPc (s.pc + 2) else s

/-- The last of keys 0 to `n - 1` that is down in an ascending scan: the last match wins (44_keypad_timers.md R213). -/
def State.lastKeyDown (s : State) : Nat → Option Nat
  | 0 => none
  | k + 1 => if s.keyDown k then some k else s.lastKeyDown k

/-- The address of the glyph for a register value, not masked to a nibble (42_index_memory.md R172). -/
def glyphAddr (b : Byte) : Addr := BitVec.ofNat 16 (Config.fontBase + 5 * b.toNat)

end Sys2Proof.Machine
end

