-- ==== Sys2Proof/Machine/ControlFlow.lean ====
section
/-! DEFINITION. Control transfer (40_control_flow.md). In every meaning `pc` already holds the address of the next
sequential instruction (00_scope.md R14). -/

namespace Sys2Proof.Machine

/-- 00EE `RET` (R121). -/
def execRet (s : State) : Host.Outcome State Fault Refusal :=
  if h : 0 < s.sp.val then .next (s.drop.setPc (s.top h)) else .next (s.raise .stackUnderflow 0)

/-- 1NNN `JP NNN` (R122). -/
def execJp (nnn : Nnn) (s : State) : Host.Outcome State Fault Refusal := .next (s.setPc (zextNnn nnn))

/-- 2NNN `CALL NNN` (R123). -/
def execCall (nnn : Nnn) (s : State) : Host.Outcome State Fault Refusal :=
  if h : s.sp.val < 16 then .next ((s.push s.pc h).setPc (zextNnn nnn)) else .next (s.raise .stackOverflow 16)

/-- 3XKK `SE VX, KK` (R124). -/
def execSeImm (x : Reg) (kk : Byte) (s : State) : Host.Outcome State Fault Refusal :=
  .next (s.skipIf (s.reg x == kk))

/-- 4XKK `SNE VX, KK` (R125). -/
def execSneImm (x : Reg) (kk : Byte) (s : State) : Host.Outcome State Fault Refusal :=
  .next (s.skipIf (s.reg x != kk))

/-- 5XY0 `SE VX, VY` (R126). -/
def execSeReg (x y : Reg) (s : State) : Host.Outcome State Fault Refusal :=
  .next (s.skipIf (s.reg x == s.reg y))

/-- 9XY0 `SNE VX, VY` (R127). -/
def execSneReg (x y : Reg) (s : State) : Host.Outcome State Fault Refusal :=
  .next (s.skipIf (s.reg x != s.reg y))

/-- BNNN `JP V0, NNN`: the whole sum, not masked to 12 bits (R128). -/
def execJpV0 (nnn : Nnn) (s : State) : Host.Outcome State Fault Refusal :=
  .next (s.setPc (zextByte (s.reg 0) + zextNnn nnn))

end Sys2Proof.Machine
end

