-- ==== Sys2Proof/Machine/IndexMemory.lean ====
section
/-! DEFINITION. The index register and memory (42_index_memory.md). `I` is never changed by an access (R176). -/

namespace Sys2Proof.Machine

/-- ANNN `LD I, NNN` (R170). -/
def execLdI (nnn : Nnn) (s : State) : Host.Outcome State Fault Refusal := .next (s.setIndex (zextNnn nnn))

/-- FX1E `ADD I, VX`: modulo 65536, no flag (R171). -/
def execAddI (x : Reg) (s : State) : Host.Outcome State Fault Refusal := .next (s.setIndex (s.i + zextByte (s.reg x)))

/-- FX29 `LD F, VX` (R172). -/
def execLdF (x : Reg) (s : State) : Host.Outcome State Fault Refusal := .next (s.setIndex (glyphAddr (s.reg x)))

/-- The three decimal digits of a byte, hundreds first (R173). -/
def bcdDigits (b : Byte) : List Byte :=
  [BitVec.ofNat 8 (b.toNat / 100), BitVec.ofNat 8 (b.toNat / 10 % 10), BitVec.ofNat 8 (b.toNat % 10)]

/-- FX33 `LD B, VX` (R173). -/
def execLdB (x : Reg) (s : State) : Host.Outcome State Fault Refusal :=
  s.withData 3 (s.setMem (s.mem.writeBytes (s.dataAddr 0) (bcdDigits (s.reg x))))

/-- `memory[base + k] <- V[k]` for k from 0 to `n - 1`, ascending (R174). -/
def storeRegs (s : State) : Nat → Memory
  | 0 => s.mem
  | k + 1 => (storeRegs s k).write (s.dataAddr k) (s.reg (Fin.ofNat 16 k))

/-- FX55 `LD [I], VX`: X + 1 registers (R174). -/
def execLdMemVx (x : Reg) (s : State) : Host.Outcome State Fault Refusal :=
  s.withData (x.val + 1) (s.setMem (storeRegs s (x.val + 1)))

/-- `V[k] <- memory[base + k]` for k from 0 to `n - 1`, ascending (R175). -/
def loadRegs (s : State) : Nat → State
  | 0 => s
  | k + 1 => (loadRegs s k).setReg (Fin.ofNat 16 k) (s.mem.read (s.dataAddr k))

/-- FX65 `LD VX, [I]`: X + 1 registers (R175). -/
def execLdVxMem (x : Reg) (s : State) : Host.Outcome State Fault Refusal :=
  s.withData (x.val + 1) (loadRegs s (x.val + 1))

end Sys2Proof.Machine
end

