-- ==== Sys2Proof/Machine/KeypadTimers.lean ====
section
/-! DEFINITION. The keypad and the timers (44_keypad_timers.md). -/

namespace Sys2Proof.Machine

/-- EX9E `SKP VX` (R210). -/
def execSkp (x : Reg) (s : State) : Host.Outcome State Fault Refusal := s.withKey (s.reg x) fun down => s.skipIf down

/-- EXA1 `SKNP VX` (R211). -/
def execSknp (x : Reg) (s : State) : Host.Outcome State Fault Refusal := s.withKey (s.reg x) fun down => s.skipIf (!down)

/-- FX0A `LD VX, K` (R213): with no key down the instruction repeats. -/
def execLdVxK (x : Reg) (s : State) : Host.Outcome State Fault Refusal :=
  match s.lastKeyDown 16 with
  | some k => .next (s.setReg x (BitVec.ofNat 8 k))
  | none => .next (s.setPc (s.pc - 2))

/-- FX07 `LD VX, DT` (R212). -/
def execLdVxDt (x : Reg) (s : State) : Host.Outcome State Fault Refusal := .next (s.setReg x s.dt)

/-- FX15 `LD DT, VX` (R214). -/
def execLdDtVx (x : Reg) (s : State) : Host.Outcome State Fault Refusal := .next (s.setDelay (s.reg x))

/-- FX18 `LD ST, VX` (R215). -/
def execLdStVx (x : Reg) (s : State) : Host.Outcome State Fault Refusal := .next (s.setSound (s.reg x))

end Sys2Proof.Machine
end

