-- ==== Sys2Proof/Machine/Flags.lean ====
section
/-! DEFINITION. The values written to VF, the only flag (10_state.md R22). -/

namespace Sys2Proof.Machine

/-- A flag is written as 0 or 1 (R22). -/
def flagByte (c : Bool) : Byte := if c then 1 else 0

/-- 8XY4: the sum exceeds 255 (41_register_alu.md R146). -/
def carryOut (a b : Byte) : Bool := a.toNat + b.toNat > 255

/-- 8XY5, 8XY7: strictly greater, so equal operands give 0 (41_register_alu.md R147, R149; 90_conflicts.md C3). -/
def strictlyGreater (a b : Byte) : Bool := a.toNat > b.toNat

/-- 8XY6: the bit shifted out on the right, bit 0 (41_register_alu.md R148). -/
def shiftedOutRight (a : Byte) : Bool := a.getLsbD 0

/-- 8XYE: the bit shifted out on the left, bit 7 (41_register_alu.md R150). -/
def shiftedOutLeft (a : Byte) : Bool := a.getLsbD 7

end Sys2Proof.Machine
end

