-- ==== Sys2Proof/Machine/Raster.lean ====
section
/-! DEFINITION. The display and its sprite rasterizer (43_display.md). -/

namespace Sys2Proof.Machine

/-- `Pix[x, y]` (10_state.md R34). -/
def pixel (d : Display) (x : Fin 64) (y : Fin 32) : Bool := d[y].getLsbD x

/-- `Pix[x, y] <- Pix[x, y] ^ bit`. -/
def togglePixel (d : Display) (x : Fin 64) (y : Fin 32) (bit : Bool) : Display :=
  d.set y (d[y] ^^^ (if bit then BitVec.twoPow 64 x else 0))

/-- Every pixel 0 (R190). -/
def clearDisplay : Display := Vector.replicate 32 0

/-- The bit of a sprite byte that is drawn in column `col`, under either bit order (R192). -/
def spriteBit (msbFirst : Bool) (b : Byte) (col : Nat) : Bool := b.getLsbD (if msbFirst then 7 - col else col)

/-- The pixels drawn so far and whether any of them collided. -/
structure Canvas where
  /-- the display while the sprite is drawn -/
  pixels : Display
  /-- `collision` of R191 -/
  collision : Bool
  deriving DecidableEq, Repr

/-- A sprite: its bit order, its left column and top row (sampled once) and its rows. -/
structure Sprite where
  /-- `SPRITE_MSB_FIRST` (R192, 00_scope.md R7) -/
  msbFirst : Bool
  /-- `x0` -/
  left : Nat
  /-- `y0` -/
  top : Nat
  /-- one byte per row, top row first -/
  rows : List Byte
  deriving DecidableEq, Repr

/-- The body of the inner loop of R191: one sprite bit on its pixel, which wraps in both directions. -/
def drawBit (sp : Sprite) (row col : Nat) (b : Byte) (c : Canvas) : Canvas :=
  let bit := spriteBit sp.msbFirst b col
  let px := Fin.ofNat 64 (sp.left + col)
  let py := Fin.ofNat 32 (sp.top + row)
  { pixels := togglePixel c.pixels px py bit, collision := c.collision || (pixel c.pixels px py && bit) }

/-- Columns 0 to `n - 1` of one row, in order. -/
def drawColumns (sp : Sprite) (row : Nat) (b : Byte) (c : Canvas) : Nat → Canvas
  | 0 => c
  | col + 1 => drawBit sp row col b (drawColumns sp row b c col)

/-- The rows from `row` on, in order, 8 columns each. -/
def drawRows (sp : Sprite) : Nat → List Byte → Canvas → Canvas
  | _, [], c => c
  | row, b :: bs, c => drawRows sp (row + 1) bs (drawColumns sp row b c 8)

/-- The whole sprite, drawn onto a display (R191). -/
def drawSprite (sp : Sprite) (d : Display) : Canvas := drawRows sp 0 sp.rows { pixels := d, collision := false }

/-- `memory[I .. I+n-1]`. -/
def State.dataBytes (s : State) (n : Nat) : List Byte := (List.range n).map fun k => s.mem.read (s.dataAddr k)

/-- The sprite of a DXYN (R191): `V[X]`, `V[Y]` are sampled before VF is written. -/
def State.sprite (s : State) (x y : Reg) (n : Nat) : Sprite where
  msbFirst := s.config.spriteMsbFirst
  left := (s.reg x).toNat
  top := (s.reg y).toNat
  rows := s.dataBytes n

/-- 00E0 `CLS` (R190). -/
def execCls (s : State) : Host.Outcome State Fault Refusal := .next (s.setDisplay clearDisplay)

/-- DXYN `DRW VX, VY, N` (R191). -/
def execDrw (x y : Reg) (n : RowCount) (s : State) : Host.Outcome State Fault Refusal :=
  let c := drawSprite (s.sprite x y n.val) s.display
  s.withData n.val ((s.setDisplay c.pixels).setReg VF (flagByte c.collision))

end Sys2Proof.Machine
end

