-- ==== Sys2Proof/Machine/RegisterAlu.lean ====
section
/-! DEFINITION. Register load, arithmetic, logic, shift and random (41_register_alu.md). The lines of an Operation run
in order: in 8XY5, 8XY6, 8XY7 and 8XYE the second line reads the registers after the flag write (R152). -/

namespace Sys2Proof.Machine

/-- 6XKK `LD VX, KK` (R140). -/
def execLdImm (x : Reg) (kk : Byte) (s : State) : Host.Outcome State Fault Refusal := .next (s.setReg x kk)

/-- 7XKK `ADD VX, KK`: no flag (R141). -/
def execAddImm (x : Reg) (kk : Byte) (s : State) : Host.Outcome State Fault Refusal :=
  .next (s.setReg x (s.reg x + kk))

/-- 8XY0 `LD VX, VY` (R142). -/
def execLdReg (x y : Reg) (s : State) : Host.Outcome State Fault Refusal := .next (s.setReg x (s.reg y))

/-- 8XY1 `OR VX, VY` (R143). -/
def execOrReg (x y : Reg) (s : State) : Host.Outcome State Fault Refusal := .next (s.setReg x (s.reg x ||| s.reg y))

/-- 8XY2 `AND VX, VY` (R144). -/
def execAndReg (x y : Reg) (s : State) : Host.Outcome State Fault Refusal := .next (s.setReg x (s.reg x &&& s.reg y))

/-- 8XY3 `XOR VX, VY` (R145). -/
def execXorReg (x y : Reg) (s : State) : Host.Outcome State Fault Refusal := .next (s.setReg x (s.reg x ^^^ s.reg y))

/-- The sum of 8XY4 is taken before either write; the flag is written first, the result last (R146). -/
def execAddReg (x y : Reg) (s : State) : Host.Outcome State Fault Refusal :=
  .next ((s.setReg VF (flagByte (carryOut (s.reg x) (s.reg y)))).setReg x (s.reg x + s.reg y))

/-- 8XY5 `SUB VX, VY` (R147). -/
def execSubReg (x y : Reg) (s : State) : Host.Outcome State Fault Refusal :=
  let t := s.setReg VF (flagByte (strictlyGreater (s.reg x) (s.reg y)))
  .next (t.setReg x (t.reg x - t.reg y))

/-- 8XY6 `SHR VX` (R148). -/
def execShr (x : Reg) (s : State) : Host.Outcome State Fault Refusal :=
  let t := s.setReg VF (flagByte (shiftedOutRight (s.reg x)))
  .next (t.setReg x (t.reg x >>> 1))

/-- 8XY7 `SUBN VX, VY` (R149). -/
def execSubnReg (x y : Reg) (s : State) : Host.Outcome State Fault Refusal :=
  let t := s.setReg VF (flagByte (strictlyGreater (s.reg y) (s.reg x)))
  .next (t.setReg x (t.reg y - t.reg x))

/-- 8XYE `SHL VX` (R150). -/
def execShl (x : Reg) (s : State) : Host.Outcome State Fault Refusal :=
  let t := s.setReg VF (flagByte (shiftedOutLeft (s.reg x)))
  .next (t.setReg x (t.reg x <<< 1))

/-- CXKK `RND VX, KK` (R151): one draw per execution. -/
def execRnd (x : Reg) (kk : Byte) (s : State) : Host.Outcome State Fault Refusal :=
  .next (s.takeDraw.setReg x (s.randomByte &&& kk))

end Sys2Proof.Machine
end

