-- ==== Sys2Proof/Machine/Step.lean ====
section
/-! DEFINITION. One Step (30_encoding.md R90) over the operations of Ops.lean, and the state in which a given word is
the next to run. The inputs of the Step are the fields `key` and `rnd`; the host presents them before it
(HostOps.lean). -/

namespace Sys2Proof.Machine

/-- The Step of a running core that fetched `w`: advance, decode, execute, tick. A word with no operation runs as the
diagnostic no-op (R99). -/
def runWord (w : Opcode) (s : State) : Host.Outcome State Fault Refusal :=
  let done :=
    match decode w with
    | .ok i => exec i s.advance
    | .error _ => execUnknown w s.advance
  match done with
  | .next t => .next (t.retire w)
  | .fault r => .fault r
  | .refused r => .refused r

/-- `Step` (R90): a halted core changes nothing; a fetch outside memory is a fatal fault; else the word runs. -/
def step (s : State) : Host.Outcome State Fault Refusal :=
  if s.halted then .next s
  else
    match fetchWord s with
    | none => .next (s.enterFault .fetchOutOfBounds s.pc s.pc)
    | some w => runWord w s

/-- `s` with a table row's word where the next step fetches: big-endian at `pc`. A halted core is set running and a `pc`
outside the fetchable addresses is set to `PROG_BASE`, since otherwise no word would be fetched. Assumption log 10. -/
def State.withFetchWord (s : State) (nbits w : Nat) : State :=
  let a : Addr := if s.pc.toNat > 0xFFE then BitVec.ofNat 16 Config.progBase else s.pc
  let m := (s.mem.write a.toNat (highByte (tableWord nbits w))).write (a.toNat + 1) (lowByte (tableWord nbits w))
  { s with pc := a, mem := m, faultCause := 0 }

end Sys2Proof.Machine
end

