-- ==== Sys2Proof/Machine/HostOps.lean ====
section
/-! DEFINITION. The host's side: PowerOn, Reset, Load, Step with its inputs, and what the host may read
(00_scope.md R8, 10_state.md R38, 70_reset_and_hazards.md). Operations are atomic and totally ordered (R284). -/

namespace Sys2Proof.Machine

/-- The host presents the keypad bits and the random byte of the coming Step (10_state.md R35, R36). -/
def State.present (s : State) (key : BitVec 16) (rnd : Byte) : State := { s with key := key, rnd := some rnd }

/-- `Step(key, rnd)` (30_encoding.md R90). -/
def stepWith (key : BitVec 16) (rnd : Byte) (s : State) : Host.Outcome State Fault Refusal := step (s.present key rnd)

/-- `Reset()` (R271): memory below 0x200 is kept, everything else of the core takes its reset value. The inputs, the
emitted diagnostics and the parameters are not state of the core (10_state.md R45, 00_scope.md R7). Assumption log 9. -/
def State.resetCore (s : State) : State :=
  { State.reset with
    pc := s.config.resetPc
    mem := s.mem.filter (fun c => decide (c.1 < Config.progBase))
    key := s.key, rnd := s.rnd, draws := s.draws, diags := s.diags, config := s.config }

/-- The font and the reserved bytes around it, written to addresses 0x000 to 0x1FF (R270). -/
def powerOnMemory (p : Config.Params) : Memory :=
  Memory.writeBytes [] 0 ((List.range Config.progBase).map p.initialByte)

/-- `PowerOn()` (R270): the font and the reserved bytes are written, then Reset. -/
def State.powerOn (s : State) : State := (s.setMem (powerOnMemory s.config)).resetCore

/-- What Load answers (R273). -/
inductive LoadResult where
  /-- the image is in memory -/
  | ok
  /-- more than 3584 bytes; nothing was changed (60_exceptions.md R241) -/
  | programTooLarge
  deriving DecidableEq, Repr

/-- `Load(rom)` (R273): the size is checked before the Reset. -/
def load (rom : List Byte) (s : State) : LoadResult × State :=
  if rom.length > Config.romMax then (.programTooLarge, s)
  else (.ok, s.resetCore.setMem (s.resetCore.mem.writeBytes Config.progBase rom))

/-- The four operations of the host (00_scope.md R8). -/
inductive HostOp where
  /-- the source's `create()` -/
  | powerOn
  /-- the source's `reset()` -/
  | reset
  /-- the source's `load(bytes)` -/
  | load (rom : List Byte)
  /-- the source's `step()`, with its two inputs -/
  | step (key : BitVec 16) (rnd : Byte)
  deriving DecidableEq, Repr

/-- What an operation makes of the state. -/
def applyOp (op : HostOp) (s : State) : Host.Outcome State Fault Refusal :=
  match op with
  | .powerOn => .next s.powerOn
  | .reset => .next s.resetCore
  | .load rom => .next (load rom s).2
  | .step key rnd => stepWith key rnd s

/-- What the host reads of one display cell, a byte 0 or 1 at linear address `x + 64*y`
(10_state.md R34, decision D20). -/
def cellByte (d : Display) (a : Fin 2048) : Byte :=
  if pixel d (Fin.ofNat 64 a.val) (Fin.ofNat 32 (a.val / 64)) then 1 else 0

/-- What the host may read between operations (10_state.md R38). -/
structure HostView where
  /-- the 64 by 32 byte grid, row-major -/
  display : List Byte
  /-- `registers[0..15]` -/
  registers : List Byte
  /-- `program_counter` -/
  programCounter : Addr
  /-- `index_register` -/
  indexRegister : Addr
  /-- `stack[0..sp)`: stale entries are not shown -/
  stack : List Addr
  /-- `delay_timer` -/
  delayTimer : Byte
  /-- `sound_timer` -/
  soundTimer : Byte
  /-- `current_opcode` -/
  currentOpcode : Opcode
  /-- `memory[0..4095]` -/
  memory : List Byte
  /-- `stack_pointer` -/
  stackPointer : Nat
  /-- `fault_cause` -/
  faultCause : BitVec 3
  /-- `fault_pc` -/
  faultPc : Addr
  /-- `fault_info` -/
  faultInfo : Addr
  deriving DecidableEq, Repr

/-- The host's reading of a state (10_state.md R38). -/
def State.hostView (s : State) : HostView where
  display := (List.finRange 2048).map (cellByte s.display)
  registers := s.v.toList
  programCounter := s.pc
  indexRegister := s.i
  stack := s.stack.toList.take s.sp.val
  delayTimer := s.dt
  soundTimer := s.st
  currentOpcode := s.opreg
  memory := (List.range Config.memSize).map s.mem.read
  stackPointer := s.spBits.toNat
  faultCause := s.faultCause
  faultPc := s.faultPc
  faultInfo := s.faultInfo

end Sys2Proof.Machine
end

