-- ==== Sys2Proof/Safety.lean ====
section
/-! DEFINITION. The terms claims are stated in: what an instruction may write and the frame around it (10_state.md
R20), the fault and pc tables of the spec (60_exceptions.md R231, 10_state.md R24), the invariant of the core and the
end of a run. -/

namespace Sys2Proof.Machine

/-- What an execute stage may write. -/
structure Writes where
  /-- general registers -/
  regs : List Reg := []
  /-- the program counter -/
  pc : Bool := false
  /-- the index register -/
  index : Bool := false
  /-- entries of the return stack -/
  stack : List Nat := []
  /-- the stack pointer -/
  sp : Bool := false
  /-- the delay timer -/
  delay : Bool := false
  /-- the sound timer -/
  sound : Bool := false
  /-- the display -/
  display : Bool := false
  /-- addresses of memory -/
  mem : List Nat := []
  /-- the random input: the presented byte is used up, the model's draw counter moves on -/
  draw : Bool := false
  /-- the three fault registers -/
  fault : Bool := false

/-- `t` differs from `s` only in what `w` lists. Memory is compared byte by byte, through the model's read. The opcode
register, the keypad, the diagnostics and the parameters are written by no execute stage of an instruction. -/
structure Frame (w : Writes) (s t : State) : Prop where
  regs : ∀ r, r ∉ w.regs → t.reg r = s.reg r
  pc : w.pc = false → t.pc = s.pc
  index : w.index = false → t.i = s.i
  opreg : t.opreg = s.opreg
  stack : ∀ k : Fin 16, k.val ∉ w.stack → t.stack[k] = s.stack[k]
  sp : w.sp = false → t.sp = s.sp
  delay : w.delay = false → t.dt = s.dt
  sound : w.sound = false → t.st = s.st
  display : w.display = false → t.display = s.display
  mem : ∀ a, a ∉ w.mem → t.mem.read a = s.mem.read a
  faultCause : w.fault = false → t.faultCause = s.faultCause
  faultPc : w.fault = false → t.faultPc = s.faultPc
  faultInfo : w.fault = false → t.faultInfo = s.faultInfo
  key : t.key = s.key
  rnd : w.draw = false → t.rnd = s.rnd
  draws : w.draw = false → t.draws = s.draws
  diags : t.diags = s.diags
  config : t.config = s.config

/-- The fault entry of R233 as an execute stage leaves it, from the state `s` whose `pc` is 2 past the instruction. -/
structure FaultTaken (cause : FaultCause) (info : Addr) (s t : State) : Prop where
  cause : t.faultCause = s.code cause
  info : t.faultInfo = info
  address : t.faultPc = s.pc - 2
  pc : t.pc = s.pc - 2
  frame : Frame { pc := true, fault := true } s t

/-- What each instruction may write when it raises no fault: the 'Written by' column of 10_state.md R20 and the flag
writers of R22. -/
def writes (i : Instr) (s : State) : Writes :=
  match i with
  | .cls => { display := true }
  | .ret => { pc := true, sp := true }
  | .jp _ | .jpV0 _ | .seImm _ _ | .sneImm _ _ | .seReg _ _ | .sneReg _ _ | .skp _ | .sknp _ => { pc := true }
  | .call _ => { pc := true, sp := true, stack := [s.sp.val] }
  | .ldImm x _ | .addImm x _ | .ldReg x _ | .orReg x _ | .andReg x _ | .xorReg x _ | .ldVxDt x => { regs := [x] }
  | .addReg x _ | .subReg x _ | .shr x _ | .subnReg x _ | .shl x _ => { regs := [x, VF] }
  | .ldI _ | .addI _ | .ldF _ => { index := true }
  | .rnd x _ => { regs := [x], draw := true }
  | .drw _ _ _ => { regs := [VF], display := true }
  | .ldDtVx _ => { delay := true }
  | .ldStVx _ => { sound := true }
  | .ldVxK x => { regs := [x], pc := true }
  | .ldB _ => { mem := [s.dataAddr 0, s.dataAddr 1, s.dataAddr 2] }
  | .ldMemVx x => { mem := (List.range (x.val + 1)).map s.dataAddr }
  | .ldVxMem x => { regs := (List.finRange 16).filter fun r => decide (r ≤ x) }

/-- `max(I, 0x1000)`, the address a data fault reports (20_memory.md R66). -/
def maxIndex (s : State) : Addr := BitVec.ofNat 16 (max s.i.toNat 0x1000)

/-- The table of R231 for the execute stage: which fault an instruction raises in which state, with its information. -/
def faultOf (i : Instr) (s : State) : Option (FaultCause × Addr) :=
  match i with
  | .ret => if s.sp.val = 0 then some (.stackUnderflow, 0) else none
  | .call _ => if s.sp.val = 16 then some (.stackOverflow, 16) else none
  | .skp x | .sknp x => if (s.reg x).toNat > 15 then some (.keyIndexOutOfRange, BitVec.ofNat 16 (s.reg x).toNat) else none
  | .drw _ _ n => if n.val > 0 ∧ s.i.toNat + n.val - 1 > 0xFFF then some (.dataOutOfBounds, maxIndex s) else none
  | .ldB _ => if s.i.toNat + 2 > 0xFFF then some (.dataOutOfBounds, maxIndex s) else none
  | .ldMemVx x | .ldVxMem x => if s.i.toNat + x.val > 0xFFF then some (.dataOutOfBounds, maxIndex s) else none
  | .cls | .jp _ | .seImm _ _ | .sneImm _ _ | .seReg _ _ | .sneReg _ _ | .ldImm _ _ | .addImm _ _ | .ldReg _ _
  | .orReg _ _ | .andReg _ _ | .xorReg _ _ | .addReg _ _ | .subReg _ _ | .shr _ _ | .subnReg _ _ | .shl _ _ | .ldI _
  | .jpV0 _ | .rnd _ _ | .ldVxDt _ | .ldDtVx _ | .ldStVx _ | .ldVxK _ | .addI _ | .ldF _ => none

/-- The address after a skip whose condition is `c` (R24). -/
def skipTarget (a : Addr) (c : Prop) [Decidable c] : Addr := if c then a + 4 else a + 2

/-- The table of 10_state.md R24: `pc` after a Step that raises no fault, from the state before it. -/
def pcAfter (i : Instr) (s : State) : Addr :=
  match i with
  | .seImm x kk => skipTarget s.pc (s.reg x = kk)
  | .sneImm x kk => skipTarget s.pc (s.reg x ≠ kk)
  | .seReg x y => skipTarget s.pc (s.reg x = s.reg y)
  | .sneReg x y => skipTarget s.pc (s.reg x ≠ s.reg y)
  | .skp x => skipTarget s.pc (s.key.getLsbD (s.reg x).toNat = true)
  | .sknp x => skipTarget s.pc (s.key.getLsbD (s.reg x).toNat = false)
  | .jp nnn | .call nnn => BitVec.ofNat 16 nnn.toNat
  | .jpV0 nnn => BitVec.ofNat 16 ((s.reg 0).toNat + nnn.toNat)
  | .ret => if h : 0 < s.sp.val then s.top h else s.pc
  | .ldVxK _ => if s.key = 0 then s.pc else s.pc + 2
  | .cls | .ldImm _ _ | .addImm _ _ | .ldReg _ _ | .orReg _ _ | .andReg _ _ | .xorReg _ _ | .addReg _ _ | .subReg _ _
  | .shr _ _ | .subnReg _ _ | .shl _ _ | .ldI _ | .rnd _ _ | .drw _ _ _ | .ldVxDt _ | .ldDtVx _ | .ldStVx _ | .addI _
  | .ldF _ | .ldB _ | .ldMemVx _ | .ldVxMem _ => s.pc + 2

/-- What the table of R231 and R233 says of a core that the fault `c` has halted. -/
def faultRecord (c : FaultCause) (s : State) : Prop :=
  s.faultCause = s.code c ∧ s.faultPc = s.pc ∧
  match c with
  | .fetchOutOfBounds => s.faultInfo = s.pc ∧ s.pc.toNat > 0xFFE
  | .dataOutOfBounds => s.faultInfo.toNat = max s.i.toNat 0x1000
  | .stackOverflow => s.faultInfo = 16 ∧ s.sp.val = 16
  | .stackUnderflow => s.faultInfo = 0 ∧ s.sp.val = 0
  | .keyIndexOutOfRange => 15 < s.faultInfo.toNat ∧ s.faultInfo.toNat ≤ 255

/-- What is true of every state the host's operations reach: memory in canonical form and within its 4096 bytes; `pc`
at most 0x10FE, or `RESET_PC` where that is higher, and stack entries at most 0x1000 (10_state.md R25 (d)); fault
registers 0 while running, and the record of one fault once halted. -/
structure CoreInv (s : State) : Prop where
  memory : s.mem.wf = true
  pcBound : s.pc.toNat ≤ max 0x10FE s.config.resetPc.toNat
  stackBound : ∀ k : Fin 16, (s.stack[k]).toNat ≤ 0x1000
  running : s.faultCause = 0 → s.faultPc = 0 ∧ s.faultInfo = 0
  halted : s.faultCause ≠ 0 → ∃ c, faultRecord c s

/-- A running core about to execute the fetched word `w`. -/
structure Fetches (s : State) (w : Opcode) : Prop where
  running : s.halted = false
  word : fetchWord s = some w

/-- A run has ended at `a` (70_reset_and_hazards.md R291): the word there jumps to itself. -/
structure EndedAt (a : Nat) (s : State) : Prop where
  bound : a ≤ 0xFFE
  pc : s.pc.toNat = a
  running : s.faultCause = 0
  word : fetchWord s = some (packNNN 0x1 (BitVec.ofNat 12 a))

/-- `t` is `s` but for stack entries at index `sp` and above, which a host cannot read and a pop does not clear
(10_state.md R28, R39). -/
structure SameButStale (s t : State) : Prop where
  rest : t = { s with stack := t.stack }
  live : ∀ k : Fin 16, k.val < s.sp.val → t.stack[k] = s.stack[k]

/-- The byte at address `a` after `i` has stored, when it raises no fault: a register (FX55), a decimal digit (FX33), or
what was there (42_index_memory.md R173, R174). -/
def byteAfter (i : Instr) (s : State) (a : Nat) : Byte :=
  match i with
  | .ldMemVx x => if s.i.toNat ≤ a ∧ a ≤ s.i.toNat + x.val then s.reg (Fin.ofNat 16 (a - s.i.toNat)) else s.mem.read a
  | .ldB x =>
    let v := (s.reg x).toNat
    if a = s.i.toNat then BitVec.ofNat 8 (v / 100)
    else if a = s.i.toNat + 1 then BitVec.ofNat 8 (v / 10 % 10)
    else if a = s.i.toNat + 2 then BitVec.ofNat 8 (v % 10)
    else s.mem.read a
  | .cls | .ret | .jp _ | .call _ | .seImm _ _ | .sneImm _ _ | .seReg _ _ | .sneReg _ _ | .ldImm _ _ | .addImm _ _
  | .ldReg _ _ | .orReg _ _ | .andReg _ _ | .xorReg _ _ | .addReg _ _ | .subReg _ _ | .shr _ _ | .subnReg _ _ | .shl _ _
  | .ldI _ | .jpV0 _ | .rnd _ _ | .drw _ _ _ | .skp _ | .sknp _ | .ldVxDt _ | .ldDtVx _ | .ldStVx _ | .ldVxK _ | .addI _
  | .ldF _ | .ldVxMem _ => s.mem.read a

/-- The pixel of a sprite at column `px`, row `py` of the display: the bit of row `(py - top) mod 32` and column
`(px - left) mod 64`, if the sprite has it, else 0 (43_display.md R191 read for one pixel). -/
def spritePixel (sp : Sprite) (px : Fin 64) (py : Fin 32) : Bool :=
  let col := (px.val + (64 - sp.left % 64)) % 64
  let row := (py.val + (32 - sp.top % 32)) % 32
  if col < 8 then
    match sp.rows[row]? with
    | some b => spriteBit sp.msbFirst b col
    | none => false
  else false

/-- The register `r` after an instruction, when its execute stage answers a next state. -/
def regAfter (i : Instr) (s : State) (r : Reg) : Option Byte := (nextState (exec i s)).map fun t => t.reg r

/-- A timer after one tick: one less, floor 0 (10_state.md R32). -/
def oneLess (b : Byte) : Byte := BitVec.ofNat 8 (b.toNat - 1)

end Sys2Proof.Machine
end

