-- ==== Sys2Proof/Certificates/Slice0/Obligations.lean ====
section
/-! DEFINITION. The statements for the provers. `s` in a statement about `exec` is the state of the execute stage, whose
`pc` is already 2 past the instruction (00_scope.md R14). -/

open Sys2Proof Sys2Proof.Machine

/-! ### Encoding (30_encoding.md) -/

/-- Every instruction, with every operand at every value, is what its own word and its own bytes decode to. -/
def Obligations.DecodeOfEncodeIsTheInstruction : Prop :=
  ∀ i : Instr, i.wellFormed = true ∧ decode (encode i) = .ok i ∧
    ∀ rest : List Byte, decodeBytes (encodeBytes i ++ rest) = .ok (i, rest)

/-- R96: a word selects exactly the row whose match it has under its mask, and is UNKNOWN when it has none. -/
def Obligations.DecodeSelectsTheRowByMaskAndMatch : Prop :=
  (∀ (w : Opcode) (i : Instr), decode w = .ok i → w &&& i.mask = i.matchBits) ∧
  (∀ (w : Opcode) (i : Instr), w &&& i.mask = i.matchBits →
    ∃ j, decode w = .ok j ∧ j.mask = i.mask ∧ j.matchBits = i.matchBits) ∧
  (∀ (w : Opcode) (e : DecodeError), decode w = .error e →
    e = .unknownOpcode w ∧ ∀ i : Instr, w &&& i.mask ≠ i.matchBits)

/-- R98: the encodings with no operation, and where the extended sets' words fall. That the ignored bits of groups 0 and E
select nothing is the spec's decision D3 (assumption log 13). -/
def Obligations.UnknownEncodingsAreExactlyThese : Prop :=
  (∀ w : Opcode, decode w = .error (.unknownOpcode w) ↔
    (w.extractLsb' 12 4 = 0x0#4 ∧ w.extractLsb' 0 4 ∉ [0x0#4, 0xE#4]) ∨
    (w.extractLsb' 12 4 = 0x8#4 ∧ w.extractLsb' 0 4 ∈ [0x8#4, 0x9#4, 0xA#4, 0xB#4, 0xC#4, 0xD#4, 0xF#4]) ∨
    (w.extractLsb' 12 4 = 0xE#4 ∧ w.extractLsb' 0 4 ∉ [0x1#4, 0xE#4]) ∨
    (w.extractLsb' 12 4 = 0xF#4 ∧
      w.extractLsb' 0 8 ∉ [0x07#8, 0x0A#8, 0x15#8, 0x18#8, 0x1E#8, 0x29#8, 0x33#8, 0x55#8, 0x65#8])) ∧
  (∀ w : Opcode, (∃ i, decode w = .ok i) ∨ decode w = .error (.unknownOpcode w)) ∧
  (∀ w ∈ [0x00FD#16, 0x00FB#16, 0x00FC#16], decode w = .error (.unknownOpcode w)) ∧
  decode 0x00FE#16 = .ok .ret ∧ decode 0x00CE#16 = .ok .ret ∧ decode 0x00C0#16 = .ok .cls ∧
  (∀ x : Reg, ∀ kk ∈ [0x30#8, 0x75#8, 0x85#8], decode (packXKK 0xF x kk) = .error (.unknownOpcode (packXKK 0xF x kk)))

/-- R97: the ignored bits select nothing, and the six operations run for every value of them. -/
def Obligations.AliasEncodingsDecodeAsTheCanonicalOnes : Prop :=
  (∀ a b : BitVec 4, decode (packNibbles 0x0 a b 0x0) = .ok .cls ∧ decode (packNibbles 0x0 a b 0xE) = .ok .ret) ∧
  (∀ (x y : Reg) (n : BitVec 4),
    decode (packNibbles 0x5 (regBits x) (regBits y) n) = .ok (.seReg x y) ∧
    decode (packNibbles 0x9 (regBits x) (regBits y) n) = .ok (.sneReg x y)) ∧
  (∀ (x : Reg) (a : BitVec 4),
    decode (packNibbles 0xE (regBits x) a 0xE) = .ok (.skp x) ∧
    decode (packNibbles 0xE (regBits x) a 0x1) = .ok (.sknp x))

/-- Words written out from the patterns of R100, one or more per format. -/
def Obligations.WordsOfTheTableDecode : Prop :=
  decode 0x00E0 = .ok .cls ∧ decode 0x00EE = .ok .ret ∧ decode 0x1ABC = .ok (.jp 0xABC) ∧
  decode 0x2301 = .ok (.call 0x301) ∧ decode 0x3A5C = .ok (.seImm 0xA 0x5C) ∧ decode 0x9120 = .ok (.sneReg 1 2) ∧
  decode 0x8127 = .ok (.subnReg 1 2) ∧ decode 0xC10F = .ok (.rnd 1 0x0F) ∧ decode 0xD125 = .ok (.drw 1 2 5) ∧
  decode 0xE29E = .ok (.skp 2) ∧ decode 0xF20A = .ok (.ldVxK 2) ∧ decode 0xF365 = .ok (.ldVxMem 3)

/-! ### The Step (30_encoding.md R90) -/

/-- When the bytes at `pc` decode to `i`, the step runs `i` in the state with `pc` advanced; unless that raised a fault,
`opreg` then holds the word and both timers tick. -/
def Obligations.StepRunsTheDecodedInstruction : Prop :=
  ∀ (s : State) (i : Instr), s.faultCause = 0 → s.pc.toNat ≤ 0xFFE →
    decode (wordOfBytes (s.mem.read s.pc.toNat) (s.mem.read (s.pc.toNat + 1))) = .ok i →
    ∀ t, exec i { s with pc := s.pc + 2 } = .next t →
      (t.faultCause = 0 → step s = .next { t with
        opreg := wordOfBytes (s.mem.read s.pc.toNat) (s.mem.read (s.pc.toNat + 1))
        dt := oneLess t.dt, st := oneLess t.st }) ∧
      (t.faultCause ≠ 0 → step s = .next t)

/-- The word given to `withFetchWord` is the one the next step fetches and runs (the model's interface, log 10). -/
def Obligations.WithFetchWordIsFetchedNext : Prop :=
  ∀ (s : State) (w : Opcode), Fetches (s.withFetchWord 16 w.toNat) w ∧
    (∀ i, decode w = .ok i ↔ decodeTableWord 16 w.toNat = some i)

/-- R99: an unknown word is reported and passed over; only `pc`, `opreg` and the timers move. -/
def Obligations.UnknownOpcodeIsADiagnosedNoOp : Prop :=
  ∀ (s : State) (w : Opcode), Fetches s w → decode w = .error (.unknownOpcode w) →
    step s = .next { s with
      pc := s.pc + 2, opreg := w, dt := oneLess s.dt, st := oneLess s.st, diags := w :: s.diags }

/-- A halted core: no Step changes anything, whatever its inputs (R90 stage 0). -/
def Obligations.HaltedStepChangesNothing : Prop :=
  ∀ s : State, s.faultCause ≠ 0 →
    step s = .next s ∧ ∀ key rnd, stepWith key rnd s = .next (s.present key rnd)

/-- R62: the fetch is big-endian and does not wrap; a `pc` above 0xFFE is FetchOutOfBounds. -/
def Obligations.FetchIsBigEndianAndBounded : Prop :=
  ∀ s : State,
    (s.pc.toNat ≤ 0xFFE → ∃ w, fetchWord s = some w ∧
      w.toNat = (s.mem.read s.pc.toNat).toNat * 256 + (s.mem.read (s.pc.toNat + 1)).toNat) ∧
    (s.pc.toNat > 0xFFE → fetchWord s = none ∧ (s.faultCause = 0 →
      step s = .next { s with faultCause := s.code .fetchOutOfBounds, faultPc := s.pc, faultInfo := s.pc }))

/-- Nothing is stuck: every state has a successor under Step (93_implementation_defined.md, part 1). -/
def Obligations.EveryStateHasASuccessor : Prop := ∀ s : State, ∃ t, step s = .next t

/-- R233: a faulting Step is undone whole, sets only the fault registers, and halts the core for good. -/
def Obligations.FaultsArePreciseAndHaltTheCore : Prop :=
  ∀ s t : State, s.faultCause = 0 → step s = .next t → t.faultCause ≠ 0 →
    t = { s with faultCause := t.faultCause, faultPc := s.pc, faultInfo := t.faultInfo } ∧
    ∀ key rnd, stepWith key rnd t = .next (t.present key rnd)

/-- R231: the table of causes, conditions and information, for every word a running core fetches; and its codes, which
are the defaults of a parameter (R7). -/
def Obligations.FaultsAreRaisedByTheTable : Prop :=
  (∀ s : State, s.config = Config.defaults → s.code .fetchOutOfBounds = 1 ∧ s.code .dataOutOfBounds = 2 ∧
    s.code .stackOverflow = 3 ∧ s.code .stackUnderflow = 4 ∧ s.code .keyIndexOutOfRange = 5) ∧
  ∀ s : State, s.faultCause = 0 →
    (s.pc.toNat > 0xFFE → step s = .next { s with faultCause := s.code .fetchOutOfBounds, faultPc := s.pc, faultInfo := s.pc }) ∧
    (∀ w i cause info, fetchWord s = some w → decode w = .ok i → faultOf i s = some (cause, info) →
      step s = .next { s with faultCause := s.code cause, faultPc := s.pc, faultInfo := info }) ∧
    (∀ w i, fetchWord s = some w → decode w = .ok i → faultOf i s = none →
      ∃ t, step s = .next t ∧ t.faultCause = 0 ∧ t.faultPc = s.faultPc ∧ t.faultInfo = s.faultInfo) ∧
    (∀ w e, fetchWord s = some w → decode w = .error e →
      ∃ t, step s = .next t ∧ t.faultCause = 0 ∧ t.faultPc = s.faultPc ∧ t.faultInfo = s.faultInfo)

/-- R24: where each Step leaves `pc`. That a faulting Step leaves it is decision D4 (assumption log 4, 11); that the target
of BNNN is not masked is decision D27. -/
def Obligations.ProgramCounterAfterEachStep : Prop :=
  ∀ s t : State, s.faultCause = 0 → step s = .next t →
    (t.faultCause ≠ 0 → t.pc = s.pc) ∧
    (∀ w i, t.faultCause = 0 → fetchWord s = some w → decode w = .ok i → t.pc = pcAfter i s) ∧
    (∀ w e, fetchWord s = some w → decode w = .error e → t.pc = s.pc + 2) ∧
    (∀ w nnn, t.faultCause = 0 → fetchWord s = some w → decode w = .ok (.call nnn) →
      t.stack[s.sp.val]? = some (s.pc + 2))

/-- R32: the tick, at the end of every Step that does not fault and of no other, after the execute stage. That faulting and
halted Steps do not tick is the spec's decisions D4 and D22 (assumption log 11). -/
def Obligations.TimersTickOncePerStep : Prop :=
  ∀ s t : State, step s = .next t →
    (t.faultCause ≠ 0 → t.dt = s.dt ∧ t.st = s.st) ∧
    (∀ w, t.faultCause = 0 → fetchWord s = some w →
      t.dt = oneLess (match decode w with | .ok (.ldDtVx x) => s.reg x | _ => s.dt) ∧
      t.st = oneLess (match decode w with | .ok (.ldStVx x) => s.reg x | _ => s.st))

/-- `opreg` after a Step: the fetched word, or the old one when the Step faults or the core is halted (R27). -/
def Obligations.OpcodeRegisterHoldsTheFetchedWord : Prop :=
  ∀ s t : State, step s = .next t →
    (t.faultCause ≠ 0 → t.opreg = s.opreg) ∧ (∀ w, t.faultCause = 0 → fetchWord s = some w → t.opreg = w)

/-! ### Whole-machine rules -/

/-- The invariant holds after PowerOn. -/
def Obligations.InvariantAfterPowerOn : Prop := CoreInv State.reset ∧ ∀ s : State, CoreInv s.powerOn

/-- Every step from a state with the invariant leads to one. -/
def Obligations.StepKeepsTheInvariant : Prop := ∀ s t : State, CoreInv s → step s = .next t → CoreInv t

/-- So does every operation of the host, with any image and any inputs. -/
def Obligations.HostOperationsKeepTheInvariant : Prop :=
  ∀ (op : HostOp) (s t : State), CoreInv s → applyOp op s = .next t → CoreInv t

/-- What each instruction leaves unchanged: all state but what `writes` lists for it, or, when it raises a fault, all
state but `pc` and the fault registers (decisions D4, D14; the random input's fields: assumption log 2). -/
def Obligations.EveryInstructionKeepsItsFrame : Prop :=
  ∀ (i : Instr) (s t : State), s.faultCause = 0 → exec i s = .next t →
    (t.faultCause = 0 → Frame (writes i s) s t) ∧
    (t.faultCause ≠ 0 → ∃ cause, FaultTaken cause t.faultInfo s t)

/-- R36: the random byte is read by CXKK alone. -/
def Obligations.OnlyRandomReadsTheRandomByte : Prop :=
  ∀ (s t : State) (r : Option Byte) (n : Nat),
    (∀ w x kk, fetchWord s = some w → decode w ≠ .ok (.rnd x kk)) → step s = .next t →
    step { s with rnd := r, draws := n } = .next { t with rnd := r, draws := n }

/-- R35: the keypad is read by EX9E, EXA1 and FX0A alone, and written by no Step. -/
def Obligations.OnlyKeyInstructionsReadTheKeypad : Prop :=
  ∀ (s t : State) (key : BitVec 16), step s = .next t → t.key = s.key ∧
    ((∀ w x, fetchWord s = some w → decode w ≠ .ok (.skp x) ∧ decode w ≠ .ok (.sknp x) ∧ decode w ≠ .ok (.ldVxK x)) →
      step { s with key := key } = .next { t with key := key })

/-- R39 (a): stale stack entries are seen neither by the host nor by any Step, now or later. -/
def Obligations.StaleStackEntriesNeverMatter : Prop :=
  ∀ s t : State, SameButStale s t →
    s.hostView = t.hostView ∧
    ∀ s', step s = .next s' → ∃ t', step t = .next t' ∧ SameButStale s' t'

/-- A byte read back is the one last written there, writing keeps the canonical form, and two memories in that form that
read alike everywhere are the same data. -/
def Obligations.MemoryIsReadAfterWriteAndCanonical : Prop :=
  (∀ (m : Memory) (a c : Nat) (b : Byte), (m.write a b).read c = if c = a then b else m.read c) ∧
  (∀ (m : Memory) (a : Nat) (b : Byte), m.wf = true → a ≤ 0xFFF → (m.write a b).wf = true) ∧
  (∀ m n : Memory, m.wf = true → n.wf = true → (∀ a, m.read a = n.read a) → m = n)

/-- R75: the very next fetch is of the bytes as they stand after the stores of the instruction before it, whichever of
them it stored (`byteAfter`): both, either or none of an FX55's or FX33's, be they its own two bytes or not. -/
def Obligations.StoredRegistersAreFetchedNext : Prop :=
  ∀ (s t : State) (w : Opcode) (i : Instr), Fetches s w → decode w = .ok i → step s = .next t → t.faultCause = 0 →
    t.pc.toNat ≤ 0xFFE →
    fetchWord t = some (wordOfBytes (byteAfter i s t.pc.toNat) (byteAfter i s (t.pc.toNat + 1)))

/-- A call and the return at its target come back after the call, with `sp` and every live stack entry as before; the entry
at `sp` keeps the pushed address. -/
def Obligations.ReturnComesBackAfterTheCall : Prop :=
  ∀ (s t : State) (w w' : Opcode) (nnn : Nnn), Fetches s w → decode w = .ok (.call nnn) → s.sp.val < 16 →
    step s = .next t → Fetches t w' → decode w' = .ok .ret →
    ∃ u, step t = .next u ∧ u.pc = s.pc + 2 ∧ u.sp = s.sp ∧ u.stack[s.sp.val]? = some (s.pc + 2) ∧
      ∀ k : Fin 16, k.val < s.sp.val → u.stack[k] = s.stack[k]

/-- R291: a run that has ended stays ended, and only the timers and `opreg` still move. -/
def Obligations.EndedRunStaysEnded : Prop :=
  ∀ (a : Nat) (s : State), EndedAt a s →
    step s = .next { s with opreg := packNNN 0x1 (BitVec.ofNat 12 a), dt := oneLess s.dt, st := oneLess s.st } ∧
    EndedAt a { s with opreg := packNNN 0x1 (BitVec.ofNat 12 a), dt := oneLess s.dt, st := oneLess s.st }

/-! ### PowerOn, Reset, Load (70_reset_and_hazards.md) -/

/-- R45: the value of every piece of state after PowerOn and after Reset, for all parameters of R7; then State.reset,
which is PowerOn under the defaults (the spec's decisions D2, D8, D9, D10, D17; assumption log 5 to 8). -/
def Obligations.StateAfterPowerOnAndReset : Prop :=
  (∀ s t : State, (t = s.powerOn ∨ t = s.resetCore) →
    (∀ r, t.reg r = 0) ∧ t.pc = s.config.resetPc ∧ t.i = 0 ∧ t.opreg = 0 ∧ (∀ k : Fin 16, t.stack[k] = 0) ∧ t.sp = 0 ∧
    t.dt = 0 ∧ t.st = 0 ∧ (∀ x y, pixel t.display x y = false) ∧ t.faultCause = 0 ∧ t.faultPc = 0 ∧ t.faultInfo = 0 ∧
    ∀ a, 0x200 ≤ a → t.mem.read a = 0) ∧
  (∀ s : State, (∀ k : Fin 80, s.powerOn.mem.read (0x050 + k.val) = s.config.fontRom[k]) ∧
    ∀ a, a < 0x050 ∨ (0x0A0 ≤ a ∧ a < 0x200) → s.powerOn.mem.read a = s.config.memReservedInit.getD a 0) ∧
  (∀ (s : State) (a : Nat), a < 0x200 → s.resetCore.mem.read a = s.mem.read a) ∧
  State.reset.powerOn = State.reset ∧ State.reset.pc = 0x200 ∧ State.reset.config.spriteMsbFirst = true ∧
  State.reset.config.spWidth = 5 ∧ (∀ k < 80, State.reset.mem.read (0x050 + k) = Config.fontRom.getD k 0) ∧
  ∀ a, a < 0x050 ∨ (0x0A0 ≤ a ∧ a < 0x200) → State.reset.mem.read a = 0

/-- R273: an image of at most 3584 bytes stands at 0x200 in a core that is otherwise reset; a longer one changes
nothing. -/
def Obligations.LoadPlacesTheImageOrChangesNothing : Prop :=
  ∀ (rom : List Byte) (s : State),
    (rom.length > 3584 → load rom s = (.programTooLarge, s)) ∧
    (rom.length ≤ 3584 → ∃ t, load rom s = (.ok, t) ∧
      (∀ k (h : k < rom.length), t.mem.read (0x200 + k) = rom[k]) ∧
      (∀ a, 0x200 + rom.length ≤ a → t.mem.read a = 0) ∧
      (∀ a, a < 0x200 → t.mem.read a = s.mem.read a) ∧
      { t with mem := [] } = { s.resetCore with mem := [] })

/-- R7: the parameters are fixed. No operation of the host writes them, and the stack pointer of `SP_WIDTH` bits, which
is what the host reads, is the number of return addresses held (the field is the model's choice, assumption log 19). -/
def Obligations.ParametersAreFixed : Prop :=
  (∀ (op : HostOp) (s t : State), applyOp op s = .next t → t.config = s.config) ∧
  ∀ s : State, s.spBits.toNat = s.sp.val ∧ s.hostView.stackPointer = s.sp.val

/-- R7: a Step reads the sprite bit order and the fault codes and no other parameter. -/
def Obligations.StepReadsTwoParametersAlone : Prop :=
  ∀ (s t : State) (p : Config.Params), p.spriteMsbFirst = s.config.spriteMsbFirst → p.faultCodes = s.config.faultCodes →
    step s = .next t → step { s with config := p } = .next { t with config := p }

/-! ### Control transfer (40_control_flow.md) -/

/-- R121 -/
def Obligations.ReturnPopsTheStack : Prop :=
  (∀ a b : BitVec 4, decode (packNibbles 0x0 a b 0xE) = .ok .ret) ∧
  ∀ s : State,
    (s.sp.val ≠ 0 → ∃ t, exec .ret s = .next t ∧ t.sp.val = s.sp.val - 1 ∧ s.stack[s.sp.val - 1]? = some t.pc ∧
      Frame { pc := true, sp := true } s t) ∧
    (s.sp.val = 0 → ∃ t, exec .ret s = .next t ∧ FaultTaken .stackUnderflow 0 s t)

/-- R122 -/
def Obligations.JumpLoadsTheAddress : Prop :=
  ∀ (nnn : Nnn) (s : State), decode (packNNN 0x1 nnn) = .ok (.jp nnn) ∧
    ∃ t, exec (.jp nnn) s = .next t ∧ t.pc.toNat = nnn.toNat ∧ Frame { pc := true } s t

/-- R123 -/
def Obligations.CallPushesAndJumps : Prop :=
  ∀ (nnn : Nnn) (s : State), decode (packNNN 0x2 nnn) = .ok (.call nnn) ∧
    (s.sp.val ≠ 16 → ∃ t, exec (.call nnn) s = .next t ∧ t.stack[s.sp.val]? = some s.pc ∧ t.sp.val = s.sp.val + 1 ∧
      t.pc.toNat = nnn.toNat ∧ Frame { pc := true, sp := true, stack := [s.sp.val] } s t) ∧
    (s.sp.val = 16 → ∃ t, exec (.call nnn) s = .next t ∧ FaultTaken .stackOverflow 16 s t)

/-- R124, R125: for given X and KK exactly one of the two skips. -/
def Obligations.SkipsOnAnImmediate : Prop :=
  ∀ (x : Reg) (kk : Byte) (s : State),
    decode (packXKK 0x3 x kk) = .ok (.seImm x kk) ∧ decode (packXKK 0x4 x kk) = .ok (.sneImm x kk) ∧
    (∃ t, exec (.seImm x kk) s = .next t ∧ t.pc = (if s.reg x = kk then s.pc + 2 else s.pc) ∧
      Frame { pc := true } s t) ∧
    (∃ t, exec (.sneImm x kk) s = .next t ∧ t.pc = (if s.reg x = kk then s.pc else s.pc + 2) ∧
      Frame { pc := true } s t)

/-- R126, R127: the low nibble is ignored; equal register numbers always skip 5XY0 and never 9XY0. -/
def Obligations.SkipsOnTwoRegisters : Prop :=
  ∀ (x y : Reg) (n : BitVec 4) (s : State),
    decode (packXYN 0x5 x y n) = .ok (.seReg x y) ∧ decode (packXYN 0x9 x y n) = .ok (.sneReg x y) ∧
    (∃ t, exec (.seReg x y) s = .next t ∧ t.pc = (if s.reg x = s.reg y then s.pc + 2 else s.pc) ∧
      Frame { pc := true } s t) ∧
    (∃ t, exec (.sneReg x y) s = .next t ∧ t.pc = (if s.reg x = s.reg y then s.pc else s.pc + 2) ∧
      Frame { pc := true } s t)

/-- R128: the sum is kept whole, not masked to 12 bits. -/
def Obligations.IndexedJumpAddsRegisterZero : Prop :=
  ∀ (nnn : Nnn) (s : State), decode (packNNN 0xB nnn) = .ok (.jpV0 nnn) ∧
    ∃ t, exec (.jpV0 nnn) s = .next t ∧ t.pc.toNat = (s.reg 0).toNat + nnn.toNat ∧ Frame { pc := true } s t

/-! ### Registers (41_register_alu.md) -/

/-- R140 -/
def Obligations.LoadImmediateSetsTheRegister : Prop :=
  ∀ (x : Reg) (kk : Byte) (s : State), decode (packXKK 0x6 x kk) = .ok (.ldImm x kk) ∧
    ∃ t, exec (.ldImm x kk) s = .next t ∧ t.reg x = kk ∧ Frame { regs := [x] } s t

/-- R141 -/
def Obligations.AddImmediateWrapsWithoutFlag : Prop :=
  ∀ (x : Reg) (kk : Byte) (s : State), decode (packXKK 0x7 x kk) = .ok (.addImm x kk) ∧
    ∃ t, exec (.addImm x kk) s = .next t ∧ (t.reg x).toNat = ((s.reg x).toNat + kk.toNat) % 256 ∧
      Frame { regs := [x] } s t

/-- R142 to R145: copy, or, and, exclusive or; VF is written only as X. -/
def Obligations.CopyAndLogicWriteOnlyTheDestination : Prop :=
  ∀ (x y : Reg) (s : State),
    decode (packXYN 0x8 x y 0x0) = .ok (.ldReg x y) ∧ decode (packXYN 0x8 x y 0x1) = .ok (.orReg x y) ∧
    decode (packXYN 0x8 x y 0x2) = .ok (.andReg x y) ∧ decode (packXYN 0x8 x y 0x3) = .ok (.xorReg x y) ∧
    (∃ t, exec (.ldReg x y) s = .next t ∧ t.reg x = s.reg y ∧ Frame { regs := [x] } s t) ∧
    (∃ t, exec (.orReg x y) s = .next t ∧ t.reg x = s.reg x ||| s.reg y ∧ Frame { regs := [x] } s t) ∧
    (∃ t, exec (.andReg x y) s = .next t ∧ t.reg x = s.reg x &&& s.reg y ∧ Frame { regs := [x] } s t) ∧
    (∃ t, exec (.xorReg x y) s = .next t ∧ t.reg x = s.reg x ^^^ s.reg y ∧ Frame { regs := [x] } s t)

/-- R146: the sum of the old registers; the carry in VF unless X is F, when the sum, written last, stands there (decision
D12, assumption log 14). -/
def Obligations.AddSetsCarry : Prop :=
  ∀ (x y : Reg) (s : State), decode (packXYN 0x8 x y 0x4) = .ok (.addReg x y) ∧
    ∃ t, exec (.addReg x y) s = .next t ∧ (t.reg x).toNat = ((s.reg x).toNat + (s.reg y).toNat) % 256 ∧
      (x ≠ VF → t.reg VF = if (s.reg x).toNat + (s.reg y).toNat > 255 then 1 else 0) ∧
      Frame { regs := [x, VF] } s t

/-- R147: the flag first, strictly greater; then the difference of the registers as they stand after the flag write
(the order: decision D12, assumption log 14). -/
def Obligations.SubtractSetsStrictFlag : Prop :=
  ∀ (x y : Reg) (s : State), decode (packXYN 0x8 x y 0x5) = .ok (.subReg x y) ∧
    ∃ t f, exec (.subReg x y) s = .next t ∧ f = (if (s.reg x).toNat > (s.reg y).toNat then 1 else 0) ∧
      t.reg x = (if x = VF then f else s.reg x) - (if y = VF then f else s.reg y) ∧
      (x ≠ VF → t.reg VF = f) ∧ Frame { regs := [x, VF] } s t

/-- R149: as R147 with the operands exchanged (the order: decision D12, assumption log 14). -/
def Obligations.ReverseSubtractSetsStrictFlag : Prop :=
  ∀ (x y : Reg) (s : State), decode (packXYN 0x8 x y 0x7) = .ok (.subnReg x y) ∧
    ∃ t f, exec (.subnReg x y) s = .next t ∧ f = (if (s.reg y).toNat > (s.reg x).toNat then 1 else 0) ∧
      t.reg x = (if y = VF then f else s.reg y) - (if x = VF then f else s.reg x) ∧
      (x ≠ VF → t.reg VF = f) ∧ Frame { regs := [x, VF] } s t

/-- R148: VF gets the bit shifted out; with X = F it ends 0 (decision D12, assumption log 14). Y is not used (an operand by
the model's choice, log 17). -/
def Obligations.ShiftRightSetsTheLostBit : Prop :=
  ∀ (x y : Reg) (s : State), decode (packXYN 0x8 x y 0x6) = .ok (.shr x y) ∧
    ∃ t, exec (.shr x y) s = .next t ∧
      (x ≠ VF → (t.reg x).toNat = (s.reg x).toNat / 2 ∧ (t.reg VF).toNat = (s.reg x).toNat % 2) ∧
      (x = VF → t.reg VF = 0) ∧ Frame { regs := [x, VF] } s t

/-- R150: VF gets the bit shifted out; with X = F it ends twice that bit (decision D12, assumption log 14). Y is not used (an
operand by the model's choice, log 17). -/
def Obligations.ShiftLeftSetsTheLostBit : Prop :=
  ∀ (x y : Reg) (s : State), decode (packXYN 0x8 x y 0xE) = .ok (.shl x y) ∧
    ∃ t, exec (.shl x y) s = .next t ∧
      (x ≠ VF → (t.reg x).toNat = 2 * (s.reg x).toNat % 256 ∧ (t.reg VF).toNat = (s.reg x).toNat / 128) ∧
      (x = VF → (t.reg VF).toNat = 2 * ((s.reg VF).toNat / 128)) ∧ Frame { regs := [x, VF] } s t

/-- R152: the table of final values when register F is named, `f` being VF before the instruction. -/
def Obligations.FlagRegisterAsOperand : Prop :=
  ∀ (s : State) (f : Byte), f = s.reg VF →
    (∀ y, y ≠ VF →
      regAfter (.addReg VF y) s VF = some (f + s.reg y) ∧
      regAfter (.subReg VF y) s VF = some ((if f.toNat > (s.reg y).toNat then 1 else 0) - s.reg y) ∧
      regAfter (.shr VF y) s VF = some 0 ∧
      regAfter (.subnReg VF y) s VF = some (s.reg y - (if (s.reg y).toNat > f.toNat then 1 else 0)) ∧
      regAfter (.shl VF y) s VF = some (if f.getLsbD 7 then 2 else 0)) ∧
    (∀ x, x ≠ VF →
      regAfter (.addReg x VF) s x = some (s.reg x + f) ∧
      regAfter (.addReg x VF) s VF = some (if (s.reg x).toNat + f.toNat > 255 then 1 else 0) ∧
      regAfter (.subReg x VF) s x = some (s.reg x - (if (s.reg x).toNat > f.toNat then 1 else 0)) ∧
      regAfter (.subReg x VF) s VF = some (if (s.reg x).toNat > f.toNat then 1 else 0) ∧
      regAfter (.subnReg x VF) s x = some ((if f.toNat > (s.reg x).toNat then 1 else 0) - s.reg x) ∧
      regAfter (.subnReg x VF) s VF = some (if f.toNat > (s.reg x).toNat then 1 else 0) ∧
      ∀ y, regAfter (.shr x VF) s x = regAfter (.shr x y) s x ∧ regAfter (.shr x VF) s VF = regAfter (.shr x y) s VF ∧
        regAfter (.shl x VF) s x = regAfter (.shl x y) s x ∧ regAfter (.shl x VF) s VF = regAfter (.shl x y) s VF) ∧
    regAfter (.addReg VF VF) s VF = some (f + f) ∧ regAfter (.subReg VF VF) s VF = some 0 ∧
    regAfter (.subnReg VF VF) s VF = some 0 ∧ regAfter (.shr VF VF) s VF = some 0 ∧
    regAfter (.shl VF VF) s VF = some (if f.getLsbD 7 then 2 else 0)

/-- R151: any byte under the mask; the presented byte when the host presented one. No value of the free byte is used. -/
def Obligations.RandomIsAnyByteUnderTheMask : Prop :=
  ∀ (x : Reg) (kk : Byte) (s : State), decode (packXKK 0xC x kk) = .ok (.rnd x kk) ∧
    ∃ t, exec (.rnd x kk) s = .next t ∧ (∀ r, s.rnd = some r → t.reg x = r &&& kk) ∧
      (∃ r : Byte, t.reg x = r &&& kk) ∧ t.rnd = none ∧ Frame { regs := [x], draw := true } s t

/-! ### Index register and memory (42_index_memory.md) -/

/-- R170 -/
def Obligations.LoadIndexSetsTheAddress : Prop :=
  ∀ (nnn : Nnn) (s : State), decode (packNNN 0xA nnn) = .ok (.ldI nnn) ∧
    ∃ t, exec (.ldI nnn) s = .next t ∧ t.i.toNat = nnn.toNat ∧ Frame { index := true } s t

/-- R171 -/
def Obligations.AddToIndexWrapsWithoutFlag : Prop :=
  ∀ (x : Reg) (s : State), decode (packXKK 0xF x 0x1E) = .ok (.addI x) ∧
    ∃ t, exec (.addI x) s = .next t ∧ t.i.toNat = (s.i.toNat + (s.reg x).toNat) % 65536 ∧ Frame { index := true } s t

/-- R172: all 8 bits of the register count. -/
def Obligations.FontAddressIsFiveTimesTheRegister : Prop :=
  ∀ (x : Reg) (s : State), decode (packXKK 0xF x 0x29) = .ok (.ldF x) ∧
    ∃ t, exec (.ldF x) s = .next t ∧ t.i.toNat = 0x050 + 5 * (s.reg x).toNat ∧ Frame { index := true } s t

/-- R173: three whole bytes, hundreds first; past 0xFFF a fault and no store. -/
def Obligations.DecimalDigitsAreStored : Prop :=
  ∀ (x : Reg) (s : State), decode (packXKK 0xF x 0x33) = .ok (.ldB x) ∧
    (s.i.toNat + 2 ≤ 0xFFF → ∃ t, exec (.ldB x) s = .next t ∧
      (t.mem.read s.i.toNat).toNat = (s.reg x).toNat / 100 ∧
      (t.mem.read (s.i.toNat + 1)).toNat = (s.reg x).toNat / 10 % 10 ∧
      (t.mem.read (s.i.toNat + 2)).toNat = (s.reg x).toNat % 10 ∧
      Frame { mem := [s.dataAddr 0, s.dataAddr 1, s.dataAddr 2] } s t) ∧
    (s.i.toNat + 2 > 0xFFF → ∃ t, exec (.ldB x) s = .next t ∧ FaultTaken .dataOutOfBounds (maxIndex s) s t)

/-- R174: registers V0 to VX inclusive; past 0xFFF a fault and no store. -/
def Obligations.RegistersAreStored : Prop :=
  ∀ (x : Reg) (s : State), decode (packXKK 0xF x 0x55) = .ok (.ldMemVx x) ∧
    (s.i.toNat + x.val ≤ 0xFFF → ∃ t, exec (.ldMemVx x) s = .next t ∧
      (∀ k : Reg, k ≤ x → t.mem.read (s.i.toNat + k.val) = s.reg k) ∧
      Frame { mem := (List.range (x.val + 1)).map s.dataAddr } s t) ∧
    (s.i.toNat + x.val > 0xFFF → ∃ t, exec (.ldMemVx x) s = .next t ∧ FaultTaken .dataOutOfBounds (maxIndex s) s t)

/-- R175: registers V0 to VX inclusive; past 0xFFF a fault and no register written. -/
def Obligations.RegistersAreLoaded : Prop :=
  ∀ (x : Reg) (s : State), decode (packXKK 0xF x 0x65) = .ok (.ldVxMem x) ∧
    (s.i.toNat + x.val ≤ 0xFFF → ∃ t, exec (.ldVxMem x) s = .next t ∧
      (∀ k : Reg, k ≤ x → t.reg k = s.mem.read (s.i.toNat + k.val)) ∧
      Frame { regs := (List.finRange 16).filter fun r => decide (r ≤ x) } s t) ∧
    (s.i.toNat + x.val > 0xFFF → ∃ t, exec (.ldVxMem x) s = .next t ∧ FaultTaken .dataOutOfBounds (maxIndex s) s t)

/-! ### Display (43_display.md) -/

/-- R190 -/
def Obligations.ClearScreenClearsEveryPixel : Prop :=
  (∀ a b : BitVec 4, decode (packNibbles 0x0 a b 0x0) = .ok .cls) ∧
  ∀ s : State, ∃ t, exec .cls s = .next t ∧ (∀ px py, pixel t.display px py = false) ∧ Frame { display := true } s t

/-- R191, read pixel by pixel, for both sprite bit orders (R7, log 8): every pixel becomes old XOR sprite bit,
coordinates wrapping, and VF says whether any set sprite bit met a set pixel; past 0xFFF a fault and nothing drawn. -/
def Obligations.DrawTogglesTheSpritePixels : Prop :=
  ∀ (x y : Reg) (n : RowCount) (s : State) (sp : Sprite),
    sp = { msbFirst := s.config.spriteMsbFirst, left := (s.reg x).toNat, top := (s.reg y).toNat
           rows := (List.range n.val).map fun k => s.mem.read (s.i.toNat + k) } →
    decode (packXYN 0xD x y (regBits n)) = .ok (.drw x y n) ∧
    (n.val = 0 ∨ s.i.toNat + n.val - 1 ≤ 0xFFF → ∃ t, exec (.drw x y n) s = .next t ∧
      (∀ px py, pixel t.display px py = (pixel s.display px py ^^ spritePixel sp px py)) ∧
      ((∃ px py, pixel s.display px py = true ∧ spritePixel sp px py = true) → t.reg VF = 1) ∧
      ((¬ ∃ px py, pixel s.display px py = true ∧ spritePixel sp px py = true) → t.reg VF = 0) ∧
      Frame { regs := [VF], display := true } s t) ∧
    (n.val ≠ 0 ∧ s.i.toNat + n.val - 1 > 0xFFF →
      ∃ t, exec (.drw x y n) s = .next t ∧ FaultTaken .dataOutOfBounds (maxIndex s) s t)

/-- R193: drawing the same sprite at the same place twice restores the display; the exact collision conditions. -/
def Obligations.DrawingTwiceRestoresTheDisplay : Prop :=
  ∀ (x y : Reg) (n : RowCount) (s : State), n.val = 0 ∨ s.i.toNat + n.val - 1 ≤ 0xFFF →
    ∃ t, exec (.drw x y n) s = .next t ∧
      (t.reg VF = 1 ↔ ∃ px py, spritePixel (s.sprite x y n.val) px py = true ∧ pixel s.display px py = true) ∧
      (t.reg x = s.reg x → t.reg y = s.reg y → ∃ u, exec (.drw x y n) t = .next u ∧ u.display = s.display ∧
        (u.reg VF = 1 ↔ ∃ px py, spritePixel (s.sprite x y n.val) px py = true ∧ pixel s.display px py = false))

/-! ### Keypad and timers (44_keypad_timers.md) -/

/-- R210, R211: the level of the key numbered by the register; a number above 15 is a fault. -/
def Obligations.SkipsOnAKey : Prop :=
  ∀ (x : Reg) (a : BitVec 4) (s : State),
    decode (packNibbles 0xE (regBits x) a 0xE) = .ok (.skp x) ∧
    decode (packNibbles 0xE (regBits x) a 0x1) = .ok (.sknp x) ∧
    ((s.reg x).toNat ≤ 15 →
      (∃ t, exec (.skp x) s = .next t ∧
        t.pc = (if s.key.getLsbD (s.reg x).toNat then s.pc + 2 else s.pc) ∧ Frame { pc := true } s t) ∧
      ∃ t, exec (.sknp x) s = .next t ∧
        t.pc = (if s.key.getLsbD (s.reg x).toNat then s.pc else s.pc + 2) ∧ Frame { pc := true } s t) ∧
    ((s.reg x).toNat > 15 →
      (∃ t, exec (.skp x) s = .next t ∧ FaultTaken .keyIndexOutOfRange (BitVec.ofNat 16 (s.reg x).toNat) s t) ∧
      ∃ t, exec (.sknp x) s = .next t ∧ FaultTaken .keyIndexOutOfRange (BitVec.ofNat 16 (s.reg x).toNat) s t)

/-- R213: the highest key that is down; with none down the instruction's own address again, in a Step that ends normally. -/
def Obligations.KeyWaitTakesTheHighestKeyOrRepeats : Prop :=
  ∀ (x : Reg) (s : State), decode (packXKK 0xF x 0x0A) = .ok (.ldVxK x) ∧
    (∀ k : Fin 16, s.key.getLsbD k.val = true → (∀ j : Fin 16, k < j → s.key.getLsbD j.val = false) →
      ∃ t, exec (.ldVxK x) s = .next t ∧ (t.reg x).toNat = k.val ∧ Frame { regs := [x] } s t) ∧
    (s.key = 0 → ∃ t, exec (.ldVxK x) s = .next t ∧ t.pc = s.pc - 2 ∧ Frame { pc := true } s t) ∧
    (∀ w, Fetches s w → decode w = .ok (.ldVxK x) → s.key = 0 →
      step s = .next { s with opreg := w, dt := oneLess s.dt, st := oneLess s.st })

/-- R212, R214, R215: the copies of the execute stage, and the tick of the same Step on what was written or read. -/
def Obligations.TimersAreCopied : Prop :=
  ∀ (x : Reg) (s : State),
    decode (packXKK 0xF x 0x07) = .ok (.ldVxDt x) ∧ decode (packXKK 0xF x 0x15) = .ok (.ldDtVx x) ∧
    decode (packXKK 0xF x 0x18) = .ok (.ldStVx x) ∧
    (∃ t, exec (.ldVxDt x) s = .next t ∧ t.reg x = s.dt ∧ Frame { regs := [x] } s t) ∧
    (∃ t, exec (.ldDtVx x) s = .next t ∧ t.dt = s.reg x ∧ Frame { delay := true } s t) ∧
    (∃ t, exec (.ldStVx x) s = .next t ∧ t.st = s.reg x ∧ Frame { sound := true } s t) ∧
    (∀ w, Fetches s w →
      (decode w = .ok (.ldVxDt x) → ∃ t, step s = .next t ∧ t.reg x = s.dt ∧ t.dt = oneLess s.dt) ∧
      (decode w = .ok (.ldDtVx x) → ∃ t, step s = .next t ∧ t.dt = oneLess (s.reg x) ∧ t.st = oneLess s.st) ∧
      (decode w = .ok (.ldStVx x) → ∃ t, step s = .next t ∧ t.st = oneLess (s.reg x) ∧ t.dt = oneLess s.dt))
end

