-- ==== Sys2Proof/Laws/Decode.lean ====
section
/-! SUPPORT. The fields of a packed word, the decoding of each format, and words and their bytes. -/

namespace Sys2Proof

/-! ### Fields of packed nibbles -/

section
variable (a b c d : BitVec 4)

@[simp] theorem groupOf_packNibbles : groupOf (packNibbles a b c d) = a := by
  ext i hi; simp [groupOf, packNibbles]; interval_cases i <;> simp

@[simp] theorem nibble2_packNibbles : (packNibbles a b c d).extractLsb' 8 4 = b := by
  ext i hi; simp [packNibbles]; interval_cases i <;> simp

@[simp] theorem nibble1_packNibbles : (packNibbles a b c d).extractLsb' 4 4 = c := by
  ext i hi; simp [packNibbles]; interval_cases i <;> simp

@[simp] theorem lowNibble_packNibbles : lowNibble (packNibbles a b c d) = d := by
  ext i hi; simp [lowNibble, packNibbles]; interval_cases i <;> simp

@[simp] theorem fieldX_packNibbles : fieldX (packNibbles a b c d) = b.toFin := by simp [fieldX]
@[simp] theorem fieldY_packNibbles : fieldY (packNibbles a b c d) = c.toFin := by simp [fieldY]
@[simp] theorem fieldN_packNibbles : fieldN (packNibbles a b c d) = d.toFin := by
  have := lowNibble_packNibbles a b c d
  rw [lowNibble] at this
  rw [fieldN, this]

/-- The four nibbles of a word, packed, are the word. -/
theorem packNibbles_nibbles (w : Opcode) :
    packNibbles (groupOf w) (w.extractLsb' 8 4) (w.extractLsb' 4 4) (lowNibble w) = w := by
  ext i hi; simp [groupOf, lowNibble, packNibbles]; interval_cases i <;> simp

/-- A mask that keeps the top nibble and any of the others keeps those nibbles. -/
theorem packNibbles_and (p q r t : BitVec 4) :
    packNibbles a b c d &&& packNibbles p q r t = packNibbles (a &&& p) (b &&& q) (c &&& r) (d &&& t) := by
  ext i hi; simp [packNibbles]; interval_cases i <;> simp

theorem packNibbles_inj {p q r t : BitVec 4} :
    packNibbles a b c d = packNibbles p q r t ↔ a = p ∧ b = q ∧ c = r ∧ d = t := by
  constructor
  · intro h
    refine ⟨?_, ?_, ?_, ?_⟩
    · simpa using congrArg groupOf h
    · simpa using congrArg (BitVec.extractLsb' 8 4) h
    · simpa using congrArg (BitVec.extractLsb' 4 4) h
    · simpa using congrArg lowNibble h
  · rintro ⟨rfl, rfl, rfl, rfl⟩; rfl

end

@[simp] theorem fieldKK_packXKK (g : BitVec 4) (x : Reg) (kk : Byte) : fieldKK (packXKK g x kk) = kk := by
  ext i hi; simp [fieldKK, packXKK, packNibbles]; interval_cases i <;> simp

@[simp] theorem fieldNNN_packNNN (g : BitVec 4) (nnn : Nnn) : fieldNNN (packNNN g nnn) = nnn := by
  ext i hi; simp [fieldNNN, packNNN, packNibbles]; interval_cases i <;> simp

@[simp] theorem regBits_toFin (x : Reg) : (regBits x).toFin = x := rfl
@[simp] theorem groupOf_packXKK (g : BitVec 4) (x : Reg) (kk : Byte) : groupOf (packXKK g x kk) = g := by simp [packXKK]
@[simp] theorem groupOf_packNNN (g : BitVec 4) (nnn : Nnn) : groupOf (packNNN g nnn) = g := by simp [packNNN]
@[simp] theorem groupOf_packXYN (g : BitVec 4) (x y : Reg) (n : BitVec 4) : groupOf (packXYN g x y n) = g := by
  simp [packXYN]
@[simp] theorem fieldX_packXKK (g : BitVec 4) (x : Reg) (kk : Byte) : fieldX (packXKK g x kk) = x := by simp [packXKK]
@[simp] theorem fieldX_packXYN (g : BitVec 4) (x y : Reg) (n : BitVec 4) : fieldX (packXYN g x y n) = x := by
  simp [packXYN]
@[simp] theorem fieldY_packXYN (g : BitVec 4) (x y : Reg) (n : BitVec 4) : fieldY (packXYN g x y n) = y := by
  simp [packXYN]
@[simp] theorem fieldN_packXYN (g : BitVec 4) (x y : Reg) (n : BitVec 4) : fieldN (packXYN g x y n) = n.toFin := by
  simp [packXYN]
@[simp] theorem lowNibble_packXYN (g : BitVec 4) (x y : Reg) (n : BitVec 4) : lowNibble (packXYN g x y n) = n := by
  simp [packXYN]
@[simp] theorem lowNibble_packXKK (g : BitVec 4) (x : Reg) (kk : Byte) :
    lowNibble (packXKK g x kk) = kk.extractLsb' 0 4 := by simp [packXKK]

/-! ### Words and bytes -/

@[simp] theorem wordOfBytes_split (w : Opcode) : wordOfBytes (highByte w) (lowByte w) = w := by
  ext i hi; simp [wordOfBytes, highByte, lowByte]; interval_cases i <;> simp

theorem wordOfBytes_toNat (hi lo : Byte) : (wordOfBytes hi lo).toNat = hi.toNat * 256 + lo.toNat := by
  have h1 := hi.isLt
  have h2 := lo.isLt
  have : wordOfBytes hi lo = BitVec.ofNat 16 (hi.toNat * 256 + lo.toNat) := by
    rw [wordOfBytes, ← BitVec.add_eq_or_of_and_eq_zero]
    · apply BitVec.eq_of_toNat_eq
      simp [Nat.shiftLeft_eq]
    · ext i hi; simp; interval_cases i <;> simp
  rw [this, BitVec.toNat_ofNat]
  omega

@[simp] theorem tableWord_toNat (w : Opcode) : tableWord 16 w.toNat = w := by
  apply BitVec.eq_of_toNat_eq
  have := w.isLt
  simp [tableWord]
  omega

/-! ### Masked words (30_encoding.md R96) -/

@[simp] theorem nibble_and_15 (a : BitVec 4) : a &&& 15#4 = a := by
  rw [show 15#4 = BitVec.allOnes 4 by decide, BitVec.and_allOnes]

theorem packNNN_and (g : BitVec 4) (nnn : Nnn) : packNNN g nnn &&& 0xF000 = packNibbles g 0 0 0 := by
  rw [show (0xF000 : Opcode) = packNibbles 0xF 0 0 0 by decide, packNNN, packNibbles_and]
  simp

theorem packXKK_and (g : BitVec 4) (x : Reg) (kk : Byte) : packXKK g x kk &&& 0xF000 = packNibbles g 0 0 0 := by
  rw [show (0xF000 : Opcode) = packNibbles 0xF 0 0 0 by decide, packXKK, packNibbles_and]
  simp

theorem packXKK_and_low (g : BitVec 4) (x : Reg) (kk : Byte) :
    packXKK g x kk &&& 0xF00F = packNibbles g 0 0 (kk.extractLsb' 0 4) := by
  rw [show (0xF00F : Opcode) = packNibbles 0xF 0 0 0xF by decide, packXKK, packNibbles_and]
  simp

theorem packXKK_and_key (g : BitVec 4) (x : Reg) (kk : Byte) : packXKK g x kk &&& 0xF0FF = packXKK g 0 kk := by
  rw [show (0xF0FF : Opcode) = packNibbles 0xF 0 0xF 0xF by decide, packXKK, packNibbles_and, packXKK]
  simp [regBits]

theorem packXYN_and (g : BitVec 4) (x y : Reg) (n : BitVec 4) : packXYN g x y n &&& 0xF000 = packNibbles g 0 0 0 := by
  rw [show (0xF000 : Opcode) = packNibbles 0xF 0 0 0 by decide, packXYN, packNibbles_and]
  simp

theorem packXYN_and_low (g : BitVec 4) (x y : Reg) (n : BitVec 4) :
    packXYN g x y n &&& 0xF00F = packNibbles g 0 0 n := by
  rw [show (0xF00F : Opcode) = packNibbles 0xF 0 0 0xF by decide, packXYN, packNibbles_and]
  simp

/-- Every word is its format `XKK` fields, packed. -/
theorem packXKK_fields (w : Opcode) : packXKK (groupOf w) (fieldX w) (fieldKK w) = w := by
  rw [packXKK]
  conv => rhs; rw [← packNibbles_nibbles w]
  congr 1
  · ext i hi; simp [fieldKK]
  · ext i hi; simp [fieldKK, lowNibble]

/-- Every word is its format `XYN` fields, packed. -/
theorem packXYN_fields (w : Opcode) : packXYN (groupOf w) (fieldX w) (fieldY w) (lowNibble w) = w :=
  packNibbles_nibbles w

theorem and_groupMask (w : Opcode) : w &&& 0xF000 = packNibbles (groupOf w) 0 0 0 := by
  conv => lhs; rw [← packXYN_fields w, packXYN_and]

theorem and_lowMask (w : Opcode) : w &&& 0xF00F = packNibbles (groupOf w) 0 0 (lowNibble w) := by
  conv => lhs; rw [← packXYN_fields w, packXYN_and_low]

theorem and_keyMask (w : Opcode) : w &&& 0xF0FF = packXKK (groupOf w) 0 (fieldKK w) := by
  conv => lhs; rw [← packXKK_fields w, packXKK_and_key]

/-- The top nibble has sixteen values: the last one is what is left of the others. -/
theorem groupOf_last (w : Opcode) (h0 : groupOf w ≠ 0x0) (h1 : groupOf w ≠ 0x1) (h2 : groupOf w ≠ 0x2)
    (h3 : groupOf w ≠ 0x3) (h4 : groupOf w ≠ 0x4) (h5 : groupOf w ≠ 0x5) (h6 : groupOf w ≠ 0x6) (h7 : groupOf w ≠ 0x7)
    (h8 : groupOf w ≠ 0x8) (h9 : groupOf w ≠ 0x9) (hA : groupOf w ≠ 0xA) (hB : groupOf w ≠ 0xB) (hC : groupOf w ≠ 0xC)
    (hD : groupOf w ≠ 0xD) (hE : groupOf w ≠ 0xE) : groupOf w = 0xF := by
  generalize groupOf w = g at *
  bv_omega

/-! ### Operand ranges (30_encoding.md R93) -/

@[simp] theorem regInRange_val (x : Reg) : regInRange x.val = true := by
  have := x.isLt
  simp [regInRange]; omega

@[simp] theorem rowsInRange_val (n : RowCount) : rowsInRange n.val = true := by
  have := n.isLt
  simp [rowsInRange]; omega

@[simp] theorem immInRange_toNat (kk : Byte) : immInRange kk.toNat = true := by
  have := kk.isLt
  simp [immInRange]; omega

@[simp] theorem addrInRange_toNat (nnn : Nnn) : addrInRange nnn.toNat = true := by
  have := nnn.isLt
  simp [addrInRange]; omega

/-! ### Errors -/

/-- The decoder's only error is UNKNOWN, with the word itself. -/
theorem decode_error {w : Opcode} {e : DecodeError} (h : decode w = .error e) : e = .unknownOpcode w := by
  unfold decode decodeGroup0 decodeGroup8 decodeGroupE decodeGroupF at h
  split at h <;> first | contradiction | (split at h <;> first | contradiction | exact (Except.error.inj h).symm)

end Sys2Proof
end

