-- ==== Sys2Proof/Laws/State.lean ====
section
/-! SUPPORT. What each update of State leaves in each field: one lemma per field per update, so that no proof unfolds a
record update. -/

namespace Sys2Proof.Machine

variable (s : State)

@[simp] theorem State.setReg_pc (x : Reg) (b : Byte) : (s.setReg x b).pc = s.pc := rfl
@[simp] theorem State.setReg_i (x : Reg) (b : Byte) : (s.setReg x b).i = s.i := rfl
@[simp] theorem State.setReg_opreg (x : Reg) (b : Byte) : (s.setReg x b).opreg = s.opreg := rfl
@[simp] theorem State.setReg_stack (x : Reg) (b : Byte) : (s.setReg x b).stack = s.stack := rfl
@[simp] theorem State.setReg_sp (x : Reg) (b : Byte) : (s.setReg x b).sp = s.sp := rfl
@[simp] theorem State.setReg_dt (x : Reg) (b : Byte) : (s.setReg x b).dt = s.dt := rfl
@[simp] theorem State.setReg_st (x : Reg) (b : Byte) : (s.setReg x b).st = s.st := rfl
@[simp] theorem State.setReg_mem (x : Reg) (b : Byte) : (s.setReg x b).mem = s.mem := rfl
@[simp] theorem State.setReg_display (x : Reg) (b : Byte) : (s.setReg x b).display = s.display := rfl
@[simp] theorem State.setReg_faultCause (x : Reg) (b : Byte) : (s.setReg x b).faultCause = s.faultCause := rfl
@[simp] theorem State.setReg_faultPc (x : Reg) (b : Byte) : (s.setReg x b).faultPc = s.faultPc := rfl
@[simp] theorem State.setReg_faultInfo (x : Reg) (b : Byte) : (s.setReg x b).faultInfo = s.faultInfo := rfl
@[simp] theorem State.setReg_key (x : Reg) (b : Byte) : (s.setReg x b).key = s.key := rfl
@[simp] theorem State.setReg_rnd (x : Reg) (b : Byte) : (s.setReg x b).rnd = s.rnd := rfl
@[simp] theorem State.setReg_draws (x : Reg) (b : Byte) : (s.setReg x b).draws = s.draws := rfl
@[simp] theorem State.setReg_diags (x : Reg) (b : Byte) : (s.setReg x b).diags = s.diags := rfl
@[simp] theorem State.setReg_config (x : Reg) (b : Byte) : (s.setReg x b).config = s.config := rfl

@[simp] theorem State.setPc_v (a : Addr) : (s.setPc a).v = s.v := rfl
@[simp] theorem State.setPc_pc (a : Addr) : (s.setPc a).pc = a := rfl
@[simp] theorem State.setPc_i (a : Addr) : (s.setPc a).i = s.i := rfl
@[simp] theorem State.setPc_opreg (a : Addr) : (s.setPc a).opreg = s.opreg := rfl
@[simp] theorem State.setPc_stack (a : Addr) : (s.setPc a).stack = s.stack := rfl
@[simp] theorem State.setPc_sp (a : Addr) : (s.setPc a).sp = s.sp := rfl
@[simp] theorem State.setPc_dt (a : Addr) : (s.setPc a).dt = s.dt := rfl
@[simp] theorem State.setPc_st (a : Addr) : (s.setPc a).st = s.st := rfl
@[simp] theorem State.setPc_mem (a : Addr) : (s.setPc a).mem = s.mem := rfl
@[simp] theorem State.setPc_display (a : Addr) : (s.setPc a).display = s.display := rfl
@[simp] theorem State.setPc_faultCause (a : Addr) : (s.setPc a).faultCause = s.faultCause := rfl
@[simp] theorem State.setPc_faultPc (a : Addr) : (s.setPc a).faultPc = s.faultPc := rfl
@[simp] theorem State.setPc_faultInfo (a : Addr) : (s.setPc a).faultInfo = s.faultInfo := rfl
@[simp] theorem State.setPc_key (a : Addr) : (s.setPc a).key = s.key := rfl
@[simp] theorem State.setPc_rnd (a : Addr) : (s.setPc a).rnd = s.rnd := rfl
@[simp] theorem State.setPc_draws (a : Addr) : (s.setPc a).draws = s.draws := rfl
@[simp] theorem State.setPc_diags (a : Addr) : (s.setPc a).diags = s.diags := rfl
@[simp] theorem State.setPc_config (a : Addr) : (s.setPc a).config = s.config := rfl

@[simp] theorem State.setIndex_v (a : Addr) : (s.setIndex a).v = s.v := rfl
@[simp] theorem State.setIndex_pc (a : Addr) : (s.setIndex a).pc = s.pc := rfl
@[simp] theorem State.setIndex_i (a : Addr) : (s.setIndex a).i = a := rfl
@[simp] theorem State.setIndex_opreg (a : Addr) : (s.setIndex a).opreg = s.opreg := rfl
@[simp] theorem State.setIndex_stack (a : Addr) : (s.setIndex a).stack = s.stack := rfl
@[simp] theorem State.setIndex_sp (a : Addr) : (s.setIndex a).sp = s.sp := rfl
@[simp] theorem State.setIndex_dt (a : Addr) : (s.setIndex a).dt = s.dt := rfl
@[simp] theorem State.setIndex_st (a : Addr) : (s.setIndex a).st = s.st := rfl
@[simp] theorem State.setIndex_mem (a : Addr) : (s.setIndex a).mem = s.mem := rfl
@[simp] theorem State.setIndex_display (a : Addr) : (s.setIndex a).display = s.display := rfl
@[simp] theorem State.setIndex_faultCause (a : Addr) : (s.setIndex a).faultCause = s.faultCause := rfl
@[simp] theorem State.setIndex_faultPc (a : Addr) : (s.setIndex a).faultPc = s.faultPc := rfl
@[simp] theorem State.setIndex_faultInfo (a : Addr) : (s.setIndex a).faultInfo = s.faultInfo := rfl
@[simp] theorem State.setIndex_key (a : Addr) : (s.setIndex a).key = s.key := rfl
@[simp] theorem State.setIndex_rnd (a : Addr) : (s.setIndex a).rnd = s.rnd := rfl
@[simp] theorem State.setIndex_draws (a : Addr) : (s.setIndex a).draws = s.draws := rfl
@[simp] theorem State.setIndex_diags (a : Addr) : (s.setIndex a).diags = s.diags := rfl
@[simp] theorem State.setIndex_config (a : Addr) : (s.setIndex a).config = s.config := rfl

@[simp] theorem State.setDelay_v (b : Byte) : (s.setDelay b).v = s.v := rfl
@[simp] theorem State.setDelay_pc (b : Byte) : (s.setDelay b).pc = s.pc := rfl
@[simp] theorem State.setDelay_i (b : Byte) : (s.setDelay b).i = s.i := rfl
@[simp] theorem State.setDelay_opreg (b : Byte) : (s.setDelay b).opreg = s.opreg := rfl
@[simp] theorem State.setDelay_stack (b : Byte) : (s.setDelay b).stack = s.stack := rfl
@[simp] theorem State.setDelay_sp (b : Byte) : (s.setDelay b).sp = s.sp := rfl
@[simp] theorem State.setDelay_dt (b : Byte) : (s.setDelay b).dt = b := rfl
@[simp] theorem State.setDelay_st (b : Byte) : (s.setDelay b).st = s.st := rfl
@[simp] theorem State.setDelay_mem (b : Byte) : (s.setDelay b).mem = s.mem := rfl
@[simp] theorem State.setDelay_display (b : Byte) : (s.setDelay b).display = s.display := rfl
@[simp] theorem State.setDelay_faultCause (b : Byte) : (s.setDelay b).faultCause = s.faultCause := rfl
@[simp] theorem State.setDelay_faultPc (b : Byte) : (s.setDelay b).faultPc = s.faultPc := rfl
@[simp] theorem State.setDelay_faultInfo (b : Byte) : (s.setDelay b).faultInfo = s.faultInfo := rfl
@[simp] theorem State.setDelay_key (b : Byte) : (s.setDelay b).key = s.key := rfl
@[simp] theorem State.setDelay_rnd (b : Byte) : (s.setDelay b).rnd = s.rnd := rfl
@[simp] theorem State.setDelay_draws (b : Byte) : (s.setDelay b).draws = s.draws := rfl
@[simp] theorem State.setDelay_diags (b : Byte) : (s.setDelay b).diags = s.diags := rfl
@[simp] theorem State.setDelay_config (b : Byte) : (s.setDelay b).config = s.config := rfl

@[simp] theorem State.setSound_v (b : Byte) : (s.setSound b).v = s.v := rfl
@[simp] theorem State.setSound_pc (b : Byte) : (s.setSound b).pc = s.pc := rfl
@[simp] theorem State.setSound_i (b : Byte) : (s.setSound b).i = s.i := rfl
@[simp] theorem State.setSound_opreg (b : Byte) : (s.setSound b).opreg = s.opreg := rfl
@[simp] theorem State.setSound_stack (b : Byte) : (s.setSound b).stack = s.stack := rfl
@[simp] theorem State.setSound_sp (b : Byte) : (s.setSound b).sp = s.sp := rfl
@[simp] theorem State.setSound_dt (b : Byte) : (s.setSound b).dt = s.dt := rfl
@[simp] theorem State.setSound_st (b : Byte) : (s.setSound b).st = b := rfl
@[simp] theorem State.setSound_mem (b : Byte) : (s.setSound b).mem = s.mem := rfl
@[simp] theorem State.setSound_display (b : Byte) : (s.setSound b).display = s.display := rfl
@[simp] theorem State.setSound_faultCause (b : Byte) : (s.setSound b).faultCause = s.faultCause := rfl
@[simp] theorem State.setSound_faultPc (b : Byte) : (s.setSound b).faultPc = s.faultPc := rfl
@[simp] theorem State.setSound_faultInfo (b : Byte) : (s.setSound b).faultInfo = s.faultInfo := rfl
@[simp] theorem State.setSound_key (b : Byte) : (s.setSound b).key = s.key := rfl
@[simp] theorem State.setSound_rnd (b : Byte) : (s.setSound b).rnd = s.rnd := rfl
@[simp] theorem State.setSound_draws (b : Byte) : (s.setSound b).draws = s.draws := rfl
@[simp] theorem State.setSound_diags (b : Byte) : (s.setSound b).diags = s.diags := rfl
@[simp] theorem State.setSound_config (b : Byte) : (s.setSound b).config = s.config := rfl

@[simp] theorem State.setMem_v (m : Memory) : (s.setMem m).v = s.v := rfl
@[simp] theorem State.setMem_pc (m : Memory) : (s.setMem m).pc = s.pc := rfl
@[simp] theorem State.setMem_i (m : Memory) : (s.setMem m).i = s.i := rfl
@[simp] theorem State.setMem_opreg (m : Memory) : (s.setMem m).opreg = s.opreg := rfl
@[simp] theorem State.setMem_stack (m : Memory) : (s.setMem m).stack = s.stack := rfl
@[simp] theorem State.setMem_sp (m : Memory) : (s.setMem m).sp = s.sp := rfl
@[simp] theorem State.setMem_dt (m : Memory) : (s.setMem m).dt = s.dt := rfl
@[simp] theorem State.setMem_st (m : Memory) : (s.setMem m).st = s.st := rfl
@[simp] theorem State.setMem_mem (m : Memory) : (s.setMem m).mem = m := rfl
@[simp] theorem State.setMem_display (m : Memory) : (s.setMem m).display = s.display := rfl
@[simp] theorem State.setMem_faultCause (m : Memory) : (s.setMem m).faultCause = s.faultCause := rfl
@[simp] theorem State.setMem_faultPc (m : Memory) : (s.setMem m).faultPc = s.faultPc := rfl
@[simp] theorem State.setMem_faultInfo (m : Memory) : (s.setMem m).faultInfo = s.faultInfo := rfl
@[simp] theorem State.setMem_key (m : Memory) : (s.setMem m).key = s.key := rfl
@[simp] theorem State.setMem_rnd (m : Memory) : (s.setMem m).rnd = s.rnd := rfl
@[simp] theorem State.setMem_draws (m : Memory) : (s.setMem m).draws = s.draws := rfl
@[simp] theorem State.setMem_diags (m : Memory) : (s.setMem m).diags = s.diags := rfl
@[simp] theorem State.setMem_config (m : Memory) : (s.setMem m).config = s.config := rfl

@[simp] theorem State.setDisplay_v (d : Display) : (s.setDisplay d).v = s.v := rfl
@[simp] theorem State.setDisplay_pc (d : Display) : (s.setDisplay d).pc = s.pc := rfl
@[simp] theorem State.setDisplay_i (d : Display) : (s.setDisplay d).i = s.i := rfl
@[simp] theorem State.setDisplay_opreg (d : Display) : (s.setDisplay d).opreg = s.opreg := rfl
@[simp] theorem State.setDisplay_stack (d : Display) : (s.setDisplay d).stack = s.stack := rfl
@[simp] theorem State.setDisplay_sp (d : Display) : (s.setDisplay d).sp = s.sp := rfl
@[simp] theorem State.setDisplay_dt (d : Display) : (s.setDisplay d).dt = s.dt := rfl
@[simp] theorem State.setDisplay_st (d : Display) : (s.setDisplay d).st = s.st := rfl
@[simp] theorem State.setDisplay_mem (d : Display) : (s.setDisplay d).mem = s.mem := rfl
@[simp] theorem State.setDisplay_display (d : Display) : (s.setDisplay d).display = d := rfl
@[simp] theorem State.setDisplay_faultCause (d : Display) : (s.setDisplay d).faultCause = s.faultCause := rfl
@[simp] theorem State.setDisplay_faultPc (d : Display) : (s.setDisplay d).faultPc = s.faultPc := rfl
@[simp] theorem State.setDisplay_faultInfo (d : Display) : (s.setDisplay d).faultInfo = s.faultInfo := rfl
@[simp] theorem State.setDisplay_key (d : Display) : (s.setDisplay d).key = s.key := rfl
@[simp] theorem State.setDisplay_rnd (d : Display) : (s.setDisplay d).rnd = s.rnd := rfl
@[simp] theorem State.setDisplay_draws (d : Display) : (s.setDisplay d).draws = s.draws := rfl
@[simp] theorem State.setDisplay_diags (d : Display) : (s.setDisplay d).diags = s.diags := rfl
@[simp] theorem State.setDisplay_config (d : Display) : (s.setDisplay d).config = s.config := rfl

@[simp] theorem State.push_v (a : Addr) (h : s.sp.val < 16) : (s.push a h).v = s.v := rfl
@[simp] theorem State.push_pc (a : Addr) (h : s.sp.val < 16) : (s.push a h).pc = s.pc := rfl
@[simp] theorem State.push_i (a : Addr) (h : s.sp.val < 16) : (s.push a h).i = s.i := rfl
@[simp] theorem State.push_opreg (a : Addr) (h : s.sp.val < 16) : (s.push a h).opreg = s.opreg := rfl
@[simp] theorem State.push_stack (a : Addr) (h : s.sp.val < 16) : (s.push a h).stack = s.stack.set s.sp.val a h := rfl
@[simp] theorem State.push_dt (a : Addr) (h : s.sp.val < 16) : (s.push a h).dt = s.dt := rfl
@[simp] theorem State.push_st (a : Addr) (h : s.sp.val < 16) : (s.push a h).st = s.st := rfl
@[simp] theorem State.push_mem (a : Addr) (h : s.sp.val < 16) : (s.push a h).mem = s.mem := rfl
@[simp] theorem State.push_display (a : Addr) (h : s.sp.val < 16) : (s.push a h).display = s.display := rfl
@[simp] theorem State.push_faultCause (a : Addr) (h : s.sp.val < 16) : (s.push a h).faultCause = s.faultCause := rfl
@[simp] theorem State.push_faultPc (a : Addr) (h : s.sp.val < 16) : (s.push a h).faultPc = s.faultPc := rfl
@[simp] theorem State.push_faultInfo (a : Addr) (h : s.sp.val < 16) : (s.push a h).faultInfo = s.faultInfo := rfl
@[simp] theorem State.push_key (a : Addr) (h : s.sp.val < 16) : (s.push a h).key = s.key := rfl
@[simp] theorem State.push_rnd (a : Addr) (h : s.sp.val < 16) : (s.push a h).rnd = s.rnd := rfl
@[simp] theorem State.push_draws (a : Addr) (h : s.sp.val < 16) : (s.push a h).draws = s.draws := rfl
@[simp] theorem State.push_diags (a : Addr) (h : s.sp.val < 16) : (s.push a h).diags = s.diags := rfl
@[simp] theorem State.push_config (a : Addr) (h : s.sp.val < 16) : (s.push a h).config = s.config := rfl

@[simp] theorem State.drop_v : (s.drop).v = s.v := rfl
@[simp] theorem State.drop_pc : (s.drop).pc = s.pc := rfl
@[simp] theorem State.drop_i : (s.drop).i = s.i := rfl
@[simp] theorem State.drop_opreg : (s.drop).opreg = s.opreg := rfl
@[simp] theorem State.drop_stack : (s.drop).stack = s.stack := rfl
@[simp] theorem State.drop_dt : (s.drop).dt = s.dt := rfl
@[simp] theorem State.drop_st : (s.drop).st = s.st := rfl
@[simp] theorem State.drop_mem : (s.drop).mem = s.mem := rfl
@[simp] theorem State.drop_display : (s.drop).display = s.display := rfl
@[simp] theorem State.drop_faultCause : (s.drop).faultCause = s.faultCause := rfl
@[simp] theorem State.drop_faultPc : (s.drop).faultPc = s.faultPc := rfl
@[simp] theorem State.drop_faultInfo : (s.drop).faultInfo = s.faultInfo := rfl
@[simp] theorem State.drop_key : (s.drop).key = s.key := rfl
@[simp] theorem State.drop_rnd : (s.drop).rnd = s.rnd := rfl
@[simp] theorem State.drop_draws : (s.drop).draws = s.draws := rfl
@[simp] theorem State.drop_diags : (s.drop).diags = s.diags := rfl
@[simp] theorem State.drop_config : (s.drop).config = s.config := rfl

@[simp] theorem State.takeDraw_v : (s.takeDraw).v = s.v := rfl
@[simp] theorem State.takeDraw_pc : (s.takeDraw).pc = s.pc := rfl
@[simp] theorem State.takeDraw_i : (s.takeDraw).i = s.i := rfl
@[simp] theorem State.takeDraw_opreg : (s.takeDraw).opreg = s.opreg := rfl
@[simp] theorem State.takeDraw_stack : (s.takeDraw).stack = s.stack := rfl
@[simp] theorem State.takeDraw_sp : (s.takeDraw).sp = s.sp := rfl
@[simp] theorem State.takeDraw_dt : (s.takeDraw).dt = s.dt := rfl
@[simp] theorem State.takeDraw_st : (s.takeDraw).st = s.st := rfl
@[simp] theorem State.takeDraw_mem : (s.takeDraw).mem = s.mem := rfl
@[simp] theorem State.takeDraw_display : (s.takeDraw).display = s.display := rfl
@[simp] theorem State.takeDraw_faultCause : (s.takeDraw).faultCause = s.faultCause := rfl
@[simp] theorem State.takeDraw_faultPc : (s.takeDraw).faultPc = s.faultPc := rfl
@[simp] theorem State.takeDraw_faultInfo : (s.takeDraw).faultInfo = s.faultInfo := rfl
@[simp] theorem State.takeDraw_key : (s.takeDraw).key = s.key := rfl
@[simp] theorem State.takeDraw_rnd : (s.takeDraw).rnd = none := rfl
@[simp] theorem State.takeDraw_draws : (s.takeDraw).draws = s.draws + 1 := rfl
@[simp] theorem State.takeDraw_diags : (s.takeDraw).diags = s.diags := rfl
@[simp] theorem State.takeDraw_config : (s.takeDraw).config = s.config := rfl

@[simp] theorem State.emitDiag_v (w : Opcode) : (s.emitDiag w).v = s.v := rfl
@[simp] theorem State.emitDiag_pc (w : Opcode) : (s.emitDiag w).pc = s.pc := rfl
@[simp] theorem State.emitDiag_i (w : Opcode) : (s.emitDiag w).i = s.i := rfl
@[simp] theorem State.emitDiag_opreg (w : Opcode) : (s.emitDiag w).opreg = s.opreg := rfl
@[simp] theorem State.emitDiag_stack (w : Opcode) : (s.emitDiag w).stack = s.stack := rfl
@[simp] theorem State.emitDiag_sp (w : Opcode) : (s.emitDiag w).sp = s.sp := rfl
@[simp] theorem State.emitDiag_dt (w : Opcode) : (s.emitDiag w).dt = s.dt := rfl
@[simp] theorem State.emitDiag_st (w : Opcode) : (s.emitDiag w).st = s.st := rfl
@[simp] theorem State.emitDiag_mem (w : Opcode) : (s.emitDiag w).mem = s.mem := rfl
@[simp] theorem State.emitDiag_display (w : Opcode) : (s.emitDiag w).display = s.display := rfl
@[simp] theorem State.emitDiag_faultCause (w : Opcode) : (s.emitDiag w).faultCause = s.faultCause := rfl
@[simp] theorem State.emitDiag_faultPc (w : Opcode) : (s.emitDiag w).faultPc = s.faultPc := rfl
@[simp] theorem State.emitDiag_faultInfo (w : Opcode) : (s.emitDiag w).faultInfo = s.faultInfo := rfl
@[simp] theorem State.emitDiag_key (w : Opcode) : (s.emitDiag w).key = s.key := rfl
@[simp] theorem State.emitDiag_rnd (w : Opcode) : (s.emitDiag w).rnd = s.rnd := rfl
@[simp] theorem State.emitDiag_draws (w : Opcode) : (s.emitDiag w).draws = s.draws := rfl
@[simp] theorem State.emitDiag_diags (w : Opcode) : (s.emitDiag w).diags = w :: s.diags := rfl
@[simp] theorem State.emitDiag_config (w : Opcode) : (s.emitDiag w).config = s.config := rfl

@[simp] theorem State.enterFault_v (c : FaultCause) (n a : Addr) : (s.enterFault c n a).v = s.v := rfl
@[simp] theorem State.enterFault_pc (c : FaultCause) (n a : Addr) : (s.enterFault c n a).pc = a := rfl
@[simp] theorem State.enterFault_i (c : FaultCause) (n a : Addr) : (s.enterFault c n a).i = s.i := rfl
@[simp] theorem State.enterFault_opreg (c : FaultCause) (n a : Addr) : (s.enterFault c n a).opreg = s.opreg := rfl
@[simp] theorem State.enterFault_stack (c : FaultCause) (n a : Addr) : (s.enterFault c n a).stack = s.stack := rfl
@[simp] theorem State.enterFault_sp (c : FaultCause) (n a : Addr) : (s.enterFault c n a).sp = s.sp := rfl
@[simp] theorem State.enterFault_dt (c : FaultCause) (n a : Addr) : (s.enterFault c n a).dt = s.dt := rfl
@[simp] theorem State.enterFault_st (c : FaultCause) (n a : Addr) : (s.enterFault c n a).st = s.st := rfl
@[simp] theorem State.enterFault_mem (c : FaultCause) (n a : Addr) : (s.enterFault c n a).mem = s.mem := rfl
@[simp] theorem State.enterFault_display (c : FaultCause) (n a : Addr) : (s.enterFault c n a).display = s.display := rfl
@[simp] theorem State.enterFault_faultCause (c : FaultCause) (n a : Addr) : (s.enterFault c n a).faultCause = s.code c := rfl
@[simp] theorem State.enterFault_faultPc (c : FaultCause) (n a : Addr) : (s.enterFault c n a).faultPc = a := rfl
@[simp] theorem State.enterFault_faultInfo (c : FaultCause) (n a : Addr) : (s.enterFault c n a).faultInfo = n := rfl
@[simp] theorem State.enterFault_key (c : FaultCause) (n a : Addr) : (s.enterFault c n a).key = s.key := rfl
@[simp] theorem State.enterFault_rnd (c : FaultCause) (n a : Addr) : (s.enterFault c n a).rnd = s.rnd := rfl
@[simp] theorem State.enterFault_draws (c : FaultCause) (n a : Addr) : (s.enterFault c n a).draws = s.draws := rfl
@[simp] theorem State.enterFault_diags (c : FaultCause) (n a : Addr) : (s.enterFault c n a).diags = s.diags := rfl
@[simp] theorem State.enterFault_config (c : FaultCause) (n a : Addr) : (s.enterFault c n a).config = s.config := rfl

@[simp] theorem State.raise_v (c : FaultCause) (n : Addr) : (s.raise c n).v = s.v := rfl
@[simp] theorem State.raise_pc (c : FaultCause) (n : Addr) : (s.raise c n).pc = s.pc - 2 := rfl
@[simp] theorem State.raise_i (c : FaultCause) (n : Addr) : (s.raise c n).i = s.i := rfl
@[simp] theorem State.raise_opreg (c : FaultCause) (n : Addr) : (s.raise c n).opreg = s.opreg := rfl
@[simp] theorem State.raise_stack (c : FaultCause) (n : Addr) : (s.raise c n).stack = s.stack := rfl
@[simp] theorem State.raise_sp (c : FaultCause) (n : Addr) : (s.raise c n).sp = s.sp := rfl
@[simp] theorem State.raise_dt (c : FaultCause) (n : Addr) : (s.raise c n).dt = s.dt := rfl
@[simp] theorem State.raise_st (c : FaultCause) (n : Addr) : (s.raise c n).st = s.st := rfl
@[simp] theorem State.raise_mem (c : FaultCause) (n : Addr) : (s.raise c n).mem = s.mem := rfl
@[simp] theorem State.raise_display (c : FaultCause) (n : Addr) : (s.raise c n).display = s.display := rfl
@[simp] theorem State.raise_faultCause (c : FaultCause) (n : Addr) : (s.raise c n).faultCause = s.code c := rfl
@[simp] theorem State.raise_faultPc (c : FaultCause) (n : Addr) : (s.raise c n).faultPc = s.pc - 2 := rfl
@[simp] theorem State.raise_faultInfo (c : FaultCause) (n : Addr) : (s.raise c n).faultInfo = n := rfl
@[simp] theorem State.raise_key (c : FaultCause) (n : Addr) : (s.raise c n).key = s.key := rfl
@[simp] theorem State.raise_rnd (c : FaultCause) (n : Addr) : (s.raise c n).rnd = s.rnd := rfl
@[simp] theorem State.raise_draws (c : FaultCause) (n : Addr) : (s.raise c n).draws = s.draws := rfl
@[simp] theorem State.raise_diags (c : FaultCause) (n : Addr) : (s.raise c n).diags = s.diags := rfl
@[simp] theorem State.raise_config (c : FaultCause) (n : Addr) : (s.raise c n).config = s.config := rfl

@[simp] theorem State.advance_v : (s.advance).v = s.v := rfl
@[simp] theorem State.advance_pc : (s.advance).pc = s.pc + 2 := rfl
@[simp] theorem State.advance_i : (s.advance).i = s.i := rfl
@[simp] theorem State.advance_opreg : (s.advance).opreg = s.opreg := rfl
@[simp] theorem State.advance_stack : (s.advance).stack = s.stack := rfl
@[simp] theorem State.advance_sp : (s.advance).sp = s.sp := rfl
@[simp] theorem State.advance_dt : (s.advance).dt = s.dt := rfl
@[simp] theorem State.advance_st : (s.advance).st = s.st := rfl
@[simp] theorem State.advance_mem : (s.advance).mem = s.mem := rfl
@[simp] theorem State.advance_display : (s.advance).display = s.display := rfl
@[simp] theorem State.advance_faultCause : (s.advance).faultCause = s.faultCause := rfl
@[simp] theorem State.advance_faultPc : (s.advance).faultPc = s.faultPc := rfl
@[simp] theorem State.advance_faultInfo : (s.advance).faultInfo = s.faultInfo := rfl
@[simp] theorem State.advance_key : (s.advance).key = s.key := rfl
@[simp] theorem State.advance_rnd : (s.advance).rnd = s.rnd := rfl
@[simp] theorem State.advance_draws : (s.advance).draws = s.draws := rfl
@[simp] theorem State.advance_diags : (s.advance).diags = s.diags := rfl
@[simp] theorem State.advance_config : (s.advance).config = s.config := rfl

@[simp] theorem State.tick_v : (s.tick).v = s.v := rfl
@[simp] theorem State.tick_pc : (s.tick).pc = s.pc := rfl
@[simp] theorem State.tick_i : (s.tick).i = s.i := rfl
@[simp] theorem State.tick_opreg : (s.tick).opreg = s.opreg := rfl
@[simp] theorem State.tick_stack : (s.tick).stack = s.stack := rfl
@[simp] theorem State.tick_sp : (s.tick).sp = s.sp := rfl
@[simp] theorem State.tick_dt : (s.tick).dt = tickDown s.dt := rfl
@[simp] theorem State.tick_st : (s.tick).st = tickDown s.st := rfl
@[simp] theorem State.tick_mem : (s.tick).mem = s.mem := rfl
@[simp] theorem State.tick_display : (s.tick).display = s.display := rfl
@[simp] theorem State.tick_faultCause : (s.tick).faultCause = s.faultCause := rfl
@[simp] theorem State.tick_faultPc : (s.tick).faultPc = s.faultPc := rfl
@[simp] theorem State.tick_faultInfo : (s.tick).faultInfo = s.faultInfo := rfl
@[simp] theorem State.tick_key : (s.tick).key = s.key := rfl
@[simp] theorem State.tick_rnd : (s.tick).rnd = s.rnd := rfl
@[simp] theorem State.tick_draws : (s.tick).draws = s.draws := rfl
@[simp] theorem State.tick_diags : (s.tick).diags = s.diags := rfl
@[simp] theorem State.tick_config : (s.tick).config = s.config := rfl

@[simp] theorem State.present_v (k : BitVec 16) (r : Byte) : (s.present k r).v = s.v := rfl
@[simp] theorem State.present_pc (k : BitVec 16) (r : Byte) : (s.present k r).pc = s.pc := rfl
@[simp] theorem State.present_i (k : BitVec 16) (r : Byte) : (s.present k r).i = s.i := rfl
@[simp] theorem State.present_opreg (k : BitVec 16) (r : Byte) : (s.present k r).opreg = s.opreg := rfl
@[simp] theorem State.present_stack (k : BitVec 16) (r : Byte) : (s.present k r).stack = s.stack := rfl
@[simp] theorem State.present_sp (k : BitVec 16) (r : Byte) : (s.present k r).sp = s.sp := rfl
@[simp] theorem State.present_dt (k : BitVec 16) (r : Byte) : (s.present k r).dt = s.dt := rfl
@[simp] theorem State.present_st (k : BitVec 16) (r : Byte) : (s.present k r).st = s.st := rfl
@[simp] theorem State.present_mem (k : BitVec 16) (r : Byte) : (s.present k r).mem = s.mem := rfl
@[simp] theorem State.present_display (k : BitVec 16) (r : Byte) : (s.present k r).display = s.display := rfl
@[simp] theorem State.present_faultCause (k : BitVec 16) (r : Byte) : (s.present k r).faultCause = s.faultCause := rfl
@[simp] theorem State.present_faultPc (k : BitVec 16) (r : Byte) : (s.present k r).faultPc = s.faultPc := rfl
@[simp] theorem State.present_faultInfo (k : BitVec 16) (r : Byte) : (s.present k r).faultInfo = s.faultInfo := rfl
@[simp] theorem State.present_key (k : BitVec 16) (r : Byte) : (s.present k r).key = k := rfl
@[simp] theorem State.present_rnd (k : BitVec 16) (r : Byte) : (s.present k r).rnd = some r := rfl
@[simp] theorem State.present_draws (k : BitVec 16) (r : Byte) : (s.present k r).draws = s.draws := rfl
@[simp] theorem State.present_diags (k : BitVec 16) (r : Byte) : (s.present k r).diags = s.diags := rfl
@[simp] theorem State.present_config (k : BitVec 16) (r : Byte) : (s.present k r).config = s.config := rfl

@[simp] theorem State.resetCore_config : s.resetCore.config = s.config := rfl
@[simp] theorem State.resetCore_pc : s.resetCore.pc = s.config.resetPc := rfl
@[simp] theorem State.powerOn_config : s.powerOn.config = s.config := by rw [State.powerOn, State.resetCore_config, State.setMem_config]
@[simp] theorem State.powerOn_pc : s.powerOn.pc = s.config.resetPc := by rw [State.powerOn, State.resetCore_pc, State.setMem_config]

/-- The code of a fault is read from the parameters alone. -/
theorem State.code_congr {t : State} (h : t.config = s.config) (c : FaultCause) : t.code c = s.code c := by
  cases c <;> simp [State.code, h]

@[simp] theorem State.code_advance (c : FaultCause) : s.advance.code c = s.code c := State.code_congr s rfl c

@[simp] theorem State.push_sp (a : Addr) (h : s.sp.val < 16) : (s.push a h).sp.val = s.sp.val + 1 := rfl
@[simp] theorem State.drop_sp : s.drop.sp.val = s.sp.val - 1 := rfl

end Sys2Proof.Machine
end

