-- ==== Sys2Proof/Laws/Ops.lean ====
section
/-! SUPPORT. What each shared operation over registers, the stack, data ranges and keys can do, once. -/

namespace Sys2Proof.Machine

variable (s : State)

/-! ### Registers -/

theorem State.reg_setReg (x r : Reg) (b : Byte) : (s.setReg x b).reg r = if r = x then b else s.reg r := by
  simp only [State.reg, State.setReg, Fin.getElem_fin, Vector.getElem_set, Fin.ext_iff, eq_comm]

@[simp] theorem State.reg_setReg_self (x : Reg) (b : Byte) : (s.setReg x b).reg x = b := by simp [State.reg_setReg]

@[simp] theorem State.reg_setReg_ne {x r : Reg} (b : Byte) (h : r ≠ x) : (s.setReg x b).reg r = s.reg r := by
  simp [State.reg_setReg, h]

/-- Registers are read from `v` alone. -/
theorem State.reg_congr {t : State} (h : t.v = s.v) (r : Reg) : t.reg r = s.reg r := by simp [State.reg, h]

@[simp] theorem State.reg_setPc (a : Addr) (r : Reg) : (s.setPc a).reg r = s.reg r := rfl
@[simp] theorem State.reg_setIndex (a : Addr) (r : Reg) : (s.setIndex a).reg r = s.reg r := rfl
@[simp] theorem State.reg_setDelay (b : Byte) (r : Reg) : (s.setDelay b).reg r = s.reg r := rfl
@[simp] theorem State.reg_setSound (b : Byte) (r : Reg) : (s.setSound b).reg r = s.reg r := rfl
@[simp] theorem State.reg_setMem (m : Memory) (r : Reg) : (s.setMem m).reg r = s.reg r := rfl
@[simp] theorem State.reg_setDisplay (d : Display) (r : Reg) : (s.setDisplay d).reg r = s.reg r := rfl
@[simp] theorem State.reg_push (a : Addr) (h : s.sp.val < 16) (r : Reg) : (s.push a h).reg r = s.reg r := rfl
@[simp] theorem State.reg_drop (r : Reg) : s.drop.reg r = s.reg r := rfl
@[simp] theorem State.reg_takeDraw (r : Reg) : s.takeDraw.reg r = s.reg r := rfl
@[simp] theorem State.reg_emitDiag (w : Opcode) (r : Reg) : (s.emitDiag w).reg r = s.reg r := rfl
@[simp] theorem State.reg_enterFault (c : FaultCause) (n a : Addr) (r : Reg) : (s.enterFault c n a).reg r = s.reg r := rfl
@[simp] theorem State.reg_raise (c : FaultCause) (n : Addr) (r : Reg) : (s.raise c n).reg r = s.reg r := rfl
@[simp] theorem State.reg_advance (r : Reg) : s.advance.reg r = s.reg r := rfl
@[simp] theorem State.reg_tick (r : Reg) : s.tick.reg r = s.reg r := rfl

/-! ### Halting and faults -/

theorem State.halted_eq_false : s.halted = false ↔ s.faultCause = 0 := by simp [State.halted]

theorem State.halted_eq_true : s.halted = true ↔ s.faultCause ≠ 0 := by simp [State.halted]

/-- No fault has the code 0 of a running core. -/
@[simp] theorem State.code_ne_zero (c : FaultCause) : s.code c ≠ 0#3 := by
  have h := s.config.faultCodes.distinct
  simp only [decide_eq_true_eq, List.nodup_cons, List.mem_cons, not_or] at h
  cases c
  · exact fun e => h.1.1 e.symm
  · exact fun e => h.1.2.1 e.symm
  · exact fun e => h.1.2.2.1 e.symm
  · exact fun e => h.1.2.2.2.1 e.symm
  · exact fun e => h.1.2.2.2.2.1 e.symm

/-- A code names one fault. -/
theorem State.code_inj {c d : FaultCause} (h : s.code c = s.code d) : c = d := by
  have hd := s.config.faultCodes.distinct
  simp only [decide_eq_true_eq, List.nodup_cons, List.mem_cons, not_or] at hd
  cases c <;> cases d <;> first | rfl | (simp only [State.code] at h; simp [h] at hd)

/-- The register of `SP_WIDTH` bits holds every value of the stack pointer. -/
@[simp] theorem State.spBits_toNat : s.spBits.toNat = s.sp.val := by
  have h : 16 < 2 ^ s.config.spWidth := of_decide_eq_true s.config.spHolds
  have := s.sp.isLt
  rw [State.spBits, BitVec.toNat_ofNat, Nat.mod_eq_of_lt (by omega)]

/-- What a fault raised in the execute stage is, in the terms of claims. -/
theorem State.raise_taken (c : FaultCause) (n : Addr) : FaultTaken c n s (s.raise c n) where
  cause := rfl
  info := rfl
  address := rfl
  pc := rfl
  frame := by constructor <;> simp

/-! ### Operand forms -/

theorem State.firstOutside_eq : s.firstOutside = maxIndex s := by
  have := s.i.isLt
  apply BitVec.eq_of_toNat_eq
  simp only [State.firstOutside, maxIndex, BitVec.toNat_ofNat]
  split <;> simp <;> omega

/-- A data access either has its effect or raises DataOutOfBounds. -/
theorem State.withData_cases (n : Nat) (t : State) :
    (s.rangeInMemory n = true ∧ s.withData n t = .next t) ∨
    (s.rangeInMemory n = false ∧ s.withData n t = .next (s.raise .dataOutOfBounds s.firstOutside)) := by
  cases h : s.rangeInMemory n <;> simp [State.withData, h]

theorem State.rangeInMemory_iff (n : Nat) : s.rangeInMemory n = true ↔ n = 0 ∨ s.i.toNat + n - 1 ≤ 0xFFF := by
  simp only [State.rangeInMemory, State.dataAddr, Bool.or_eq_true, decide_eq_true_eq]
  rcases n with _ | n
  · simp
  · simp

theorem State.withData_inside {n : Nat} (t : State) (h : n = 0 ∨ s.i.toNat + n - 1 ≤ 0xFFF) :
    s.withData n t = .next t := by
  simp [State.withData, (s.rangeInMemory_iff n).2 h]

theorem State.withData_outside {n : Nat} (t : State) (h : n ≠ 0 ∧ s.i.toNat + n - 1 > 0xFFF) :
    s.withData n t = .next (s.raise .dataOutOfBounds (maxIndex s)) := by
  have : s.rangeInMemory n = false := by
    rw [Bool.eq_false_iff, ne_eq, s.rangeInMemory_iff]; omega
  simp [State.withData, this, s.firstOutside_eq]

theorem State.withKey_inside {k : Byte} (f : Bool → State) (h : k.toNat ≤ 15) :
    s.withKey k f = .next (f (s.keyDown k.toNat)) := by
  rw [State.withKey, if_neg (by omega)]

theorem State.withKey_outside {k : Byte} (f : Bool → State) (h : k.toNat > 15) :
    s.withKey k f = .next (s.raise .keyIndexOutOfRange (zextByte k)) := by
  rw [State.withKey, if_pos h]

@[simp] theorem State.skipIf_true : s.skipIf true = s.setPc (s.pc + 2) := rfl
@[simp] theorem State.skipIf_false : s.skipIf false = s := rfl

/-- A skip is a write of `pc`. -/
theorem State.skipIf_eq (c : Bool) : s.skipIf c = s.setPc (if c then s.pc + 2 else s.pc) := by
  cases c <;> rfl

theorem zextByte_eq (b : Byte) : zextByte b = BitVec.ofNat 16 b.toNat := by
  apply BitVec.eq_of_toNat_eq
  simp [zextByte]

theorem zextByte_toNat (b : Byte) : (zextByte b).toNat = b.toNat := by
  have := b.isLt
  simp [zextByte]; omega

theorem zextNnn_toNat (n : Nnn) : (zextNnn n).toNat = n.toNat := by
  have := n.isLt
  simp [zextNnn]; omega

theorem glyphAddr_toNat (b : Byte) : (glyphAddr b).toNat = 0x050 + 5 * b.toNat := by
  have := b.isLt
  simp [glyphAddr, Config.fontBase]; omega

theorem oneLess_eq (b : Byte) : oneLess b = tickDown b := by
  apply BitVec.eq_of_toNat_eq
  have := b.isLt
  unfold oneLess tickDown
  split
  · next h => simp [h]
  · next h =>
    have : b.toNat ≠ 0 := fun e => h (BitVec.eq_of_toNat_eq e)
    have h1 : (1#8).toNat ≤ b.toNat := by simp; omega
    rw [BitVec.toNat_sub_of_le (by simpa [BitVec.le_def] using h1)]
    simp; omega

/-! ### The key scan -/

/-- The scan answers the highest key below `n` that is down. -/
theorem State.lastKeyDown_some {n k : Nat} (hk : k < n) (hd : s.keyDown k = true)
    (hu : ∀ j, k < j → j < n → s.keyDown j = false) : s.lastKeyDown n = some k := by
  induction n with
  | zero => omega
  | succ n ih =>
    rw [State.lastKeyDown]
    rcases Nat.lt_or_ge k n with h | h
    · rw [hu n h (by omega), if_neg (by simp), ih h fun j h1 h2 => hu j h1 (by omega)]
    · obtain rfl : k = n := by omega
      rw [if_pos hd]

/-- The scan answers none exactly when no key below `n` is down. -/
theorem State.lastKeyDown_none {n : Nat} (hu : ∀ j, j < n → s.keyDown j = false) : s.lastKeyDown n = none := by
  induction n with
  | zero => rfl
  | succ n ih => rw [State.lastKeyDown, hu n (by omega), if_neg (by simp), ih fun j h => hu j (by omega)]

/-- The scan sees the keypad alone. -/
theorem State.lastKeyDown_congr {t : State} (h : t.key = s.key) (n : Nat) : t.lastKeyDown n = s.lastKeyDown n := by
  induction n with
  | zero => rfl
  | succ n ih => simp only [State.lastKeyDown, State.keyDown, h, ih]; rfl

theorem State.lastKeyDown_lt {n k : Nat} (h : s.lastKeyDown n = some k) : k < n := by
  induction n with
  | zero => simp [State.lastKeyDown] at h
  | succ n ih =>
    rw [State.lastKeyDown] at h
    split at h
    · simp at h; omega
    · have := ih h; omega

end Sys2Proof.Machine
end

