-- ==== Sys2Proof/Laws/Memory.lean ====
section
/-! SUPPORT. Memory: a byte read is the one last written there, every operation keeps the canonical form, and memories
in that form that read alike are equal. -/

namespace Sys2Proof.Machine

/-! ### Read after write -/

theorem Memory.read_insertCell (c : Host.Cell) (m : Memory) (a : Nat) (hm : ∀ d ∈ m, d.1 ≠ c.1) :
    (Memory.insertCell c m).read a = if c.1 = a then c.2 else m.read a := by
  induction m with
  | nil => simp [Memory.insertCell, Memory.read]
  | cons d m ih =>
    rw [Memory.insertCell]
    split
    · simp [Memory.read]
    · simp only [Memory.read]
      rw [ih fun e he => hm e (by simp [he])]
      by_cases h1 : d.1 = a
      · have : c.1 ≠ a := fun h => hm d (by simp) (h1.trans h.symm)
        simp [h1, this]
      · simp [h1]

theorem Memory.mem_erase (m : Memory) (a : Nat) (d : Host.Cell) : d ∈ m.erase a ↔ d ∈ m ∧ d.1 ≠ a := by
  simp [Memory.erase]

theorem Memory.read_erase_ne (m : Memory) (a c : Nat) (h : c ≠ a) : (m.erase a).read c = m.read c := by
  induction m with
  | nil => rfl
  | cons d m ih =>
    rw [Memory.erase] at ih ⊢
    rw [List.filter_cons]
    split
    · simp only [Memory.read, ih]
    · next hd =>
      have hd : d.1 = a := by simpa using hd
      rw [ih, Memory.read, if_neg (by omega)]

theorem Memory.read_of_not_mem (m : Memory) (a : Nat) (h : ∀ d ∈ m, d.1 ≠ a) : m.read a = Config.initialByte a := by
  induction m with
  | nil => rfl
  | cons d m ih => simp [Memory.read, h d (by simp), ih fun e he => h e (by simp [he])]

theorem Memory.read_of_mem {m : Memory} (hp : m.Pairwise fun c d => c.1 < d.1) {c : Host.Cell} (hc : c ∈ m) :
    m.read c.1 = c.2 := by
  induction m with
  | nil => simp at hc
  | cons d m ih =>
    rw [List.pairwise_cons] at hp
    rcases List.mem_cons.1 hc with rfl | h
    · simp [Memory.read]
    · have := hp.1 c h
      simp [Memory.read, show d.1 ≠ c.1 by omega, ih hp.2 h]

/-- The one law of memory, for every list of cells. -/
theorem Memory.read_write (m : Memory) (a c : Nat) (b : Byte) :
    (m.write a b).read c = if c = a then b else m.read c := by
  rw [Memory.write]
  split
  · next h =>
    by_cases hc : c = a
    · subst hc
      rw [Memory.read_of_not_mem _ _ (by simp [Memory.mem_erase]), if_pos rfl, h]
    · rw [Memory.read_erase_ne m a c hc, if_neg hc]
  · rw [Memory.read_insertCell _ _ _ (by simp [Memory.mem_erase])]
    by_cases hc : c = a
    · simp [hc]
    · rw [if_neg (Ne.symm hc), if_neg hc, Memory.read_erase_ne m a c hc]

@[simp] theorem Memory.read_write_self (m : Memory) (a : Nat) (b : Byte) : (m.write a b).read a = b := by
  simp [Memory.read_write]

@[simp] theorem Memory.read_write_ne (m : Memory) {a c : Nat} (b : Byte) (h : c ≠ a) :
    (m.write a b).read c = m.read c := by
  simp [Memory.read_write, h]

/-- Bytes stored in a row are read back in place, every other address reads as before. -/
theorem Memory.read_writeBytes (m : Memory) (base : Nat) (bs : List Byte) (c : Nat) :
    (m.writeBytes base bs).read c =
      if h : base ≤ c ∧ c < base + bs.length then bs[c - base] else m.read c := by
  induction bs generalizing m base with
  | nil => rw [Memory.writeBytes, dif_neg (by simp)]
  | cons b bs ih =>
    rw [Memory.writeBytes, ih]
    by_cases h : base + 1 ≤ c ∧ c < base + 1 + bs.length
    · have h' : base ≤ c ∧ c < base + (b :: bs).length := by simp; omega
      rw [dif_pos h, dif_pos h']
      have : c - base = (c - (base + 1)) + 1 := by omega
      simp [this]
    · rw [dif_neg h]
      by_cases hc : c = base
      · subst hc
        simp
      · have h' : ¬ (base ≤ c ∧ c < base + (b :: bs).length) := by simp; omega
        rw [dif_neg h', Memory.read_write_ne _ _ hc]

/-! ### The canonical form -/

theorem Memory.wf_iff (m : Memory) : m.wf = true ↔
    (m.Pairwise fun c d => c.1 < d.1) ∧ ∀ c ∈ m, c.1 < 4096 ∧ c.2 ≠ Config.initialByte c.1 := by
  simp [Memory.wf]

theorem Memory.mem_insertCell (c d : Host.Cell) (m : Memory) : d ∈ Memory.insertCell c m ↔ d = c ∨ d ∈ m := by
  induction m with
  | nil => simp [Memory.insertCell]
  | cons e m ih =>
    rw [Memory.insertCell]
    split
    · simp
    · simp [ih, or_left_comm]

theorem Memory.pairwise_insertCell (c : Host.Cell) (m : Memory) (hm : ∀ d ∈ m, d.1 ≠ c.1)
    (hp : m.Pairwise fun c d => c.1 < d.1) : (Memory.insertCell c m).Pairwise fun c d => c.1 < d.1 := by
  induction m with
  | nil => simp [Memory.insertCell]
  | cons e m ih =>
    rw [List.pairwise_cons] at hp
    rw [Memory.insertCell]
    split
    · next h =>
      refine List.pairwise_cons.2 ⟨?_, List.pairwise_cons.2 hp⟩
      intro d hd
      rcases List.mem_cons.1 hd with rfl | hd
      · exact h
      · exact Nat.lt_trans h (hp.1 d hd)
    · next h =>
      refine List.pairwise_cons.2 ⟨?_, ih (fun d hd => hm d (by simp [hd])) hp.2⟩
      intro d hd
      rcases (Memory.mem_insertCell _ _ _).1 hd with rfl | hd
      · have := hm e (by simp); omega
      · exact hp.1 d hd

theorem Memory.wf_filter (m : Memory) (p : Host.Cell → Bool) (h : m.wf = true) : Memory.wf (m.filter p) = true := by
  rw [Memory.wf_iff] at h ⊢
  exact ⟨h.1.filter p, fun c hc => h.2 c (List.mem_filter.1 hc).1⟩

/-- A write inside the 4096 bytes keeps the canonical form. -/
theorem Memory.wf_write (m : Memory) (a : Nat) (b : Byte) (h : m.wf = true) (ha : a < 4096) :
    (m.write a b).wf = true := by
  have hf : (m.erase a).wf = true := Memory.wf_filter m _ h
  rw [Memory.write]
  split
  · exact hf
  · next hb =>
    rw [Memory.wf_iff] at hf ⊢
    refine ⟨Memory.pairwise_insertCell _ _ (by simp [Memory.mem_erase]) hf.1, fun c hc => ?_⟩
    rcases (Memory.mem_insertCell _ _ _).1 hc with rfl | hc
    · exact ⟨ha, hb⟩
    · exact hf.2 c hc

theorem Memory.wf_writeBytes (m : Memory) (base : Nat) (bs : List Byte) (h : m.wf = true)
    (hb : base + bs.length ≤ 4096) : (m.writeBytes base bs).wf = true := by
  induction bs generalizing m base with
  | nil => exact h
  | cons b bs ih =>
    simp only [List.length_cons] at hb
    exact ih _ _ (Memory.wf_write m base b h (by omega)) (by omega)

/-- The cells of a memory in canonical form are the addresses that do not read as PowerOn left them. -/
theorem Memory.mem_iff_read (m : Memory) (h : m.wf = true) (a : Nat) (b : Byte) :
    (a, b) ∈ m ↔ m.read a = b ∧ b ≠ Config.initialByte a := by
  rw [Memory.wf_iff] at h
  constructor
  · intro hc
    exact ⟨Memory.read_of_mem h.1 hc, (h.2 _ hc).2⟩
  · rintro ⟨hr, hb⟩
    by_cases hm : ∃ d ∈ m, d.1 = a
    · obtain ⟨⟨d1, d2⟩, hd, rfl⟩ := hm
      have := Memory.read_of_mem h.1 hd
      simp only at this hr ⊢
      rw [hr] at this
      rwa [this]
    · push Not at hm
      exact absurd (hr.symm.trans (Memory.read_of_not_mem m a hm)) hb

end Sys2Proof.Machine
end

