-- ==== Sys2Proof/Laws/HostOps.lean ====
section
/-! SUPPORT. What PowerOn, Reset and Load leave: memory byte by byte and in canonical form, everything else as the state
after PowerOn. -/

namespace Sys2Proof.Machine

variable (s : State)

/-! ### The bytes after PowerOn -/

theorem initialByte_program (p : Config.Params) {a : Nat} (h : 0x200 ≤ a) : p.initialByte a = 0 := by
  rw [Config.Params.initialByte, Config.progBase, if_neg (by omega)]

theorem initialByte_font (p : Config.Params) {k : Nat} (h : k < 80) : p.initialByte (0x050 + k) = p.fontRom[k] := by
  rw [Config.Params.initialByte, Config.progBase, Config.fontBase, Config.fontBytes, if_pos (by omega), if_pos (by omega)]
  simp [List.getD, h]

theorem initialByte_reserved (p : Config.Params) {a : Nat} (h : a < 0x050 ∨ (0x0A0 ≤ a ∧ a < 0x200)) :
    p.initialByte a = p.memReservedInit.getD a 0 := by
  rw [Config.Params.initialByte, Config.progBase, Config.fontBase, Config.fontBytes, if_pos (by omega), if_neg (by omega)]

/-! ### Memory -/

/-- Dropping the cells from `b` on leaves the bytes below `b`; the others read as unlisted. -/
theorem Memory.read_filter_lt (m : Memory) (b a : Nat) :
    Memory.read (m.filter fun c => decide (c.1 < b)) a = if a < b then m.read a else Config.initialByte a := by
  induction m with
  | nil => simp [Memory.read]
  | cons c m ih =>
    rw [List.filter_cons]
    split
    · next h =>
      have h : c.1 < b := by simpa using h
      simp only [Memory.read, ih]
      by_cases hc : c.1 = a
      · rw [if_pos hc, if_pos (by omega), if_pos hc]
      · rw [if_neg hc, if_neg hc]
    · next h =>
      have h : ¬ c.1 < b := by simpa using h
      rw [ih]
      split
      · rw [Memory.read, if_neg (by omega)]
      · rfl

theorem powerOnMemory_read (p : Config.Params) {a : Nat} (h : a < 0x200) : (powerOnMemory p).read a = p.initialByte a := by
  rw [powerOnMemory, Memory.read_writeBytes, dif_pos (by rw [List.length_map, List.length_range, Config.progBase]; omega)]
  simp only [List.getElem_map, List.getElem_range, Nat.sub_zero]

theorem powerOnMemory_wf (p : Config.Params) : (powerOnMemory p).wf = true :=
  Memory.wf_writeBytes [] 0 _ (by decide) (by rw [List.length_map, List.length_range]; decide)

/-- Reset leaves the bytes below 0x200 and zeroes the others (10_state.md R45). -/
theorem State.resetCore_read (a : Nat) : s.resetCore.mem.read a = if a < 0x200 then s.mem.read a else 0 := by
  rw [State.resetCore, Memory.read_filter_lt, Config.progBase]
  split
  · rfl
  · exact initialByte_program Config.defaults (by omega)

/-- PowerOn leaves at every address what the parameters say. -/
theorem State.powerOn_read (a : Nat) : s.powerOn.mem.read a = s.config.initialByte a := by
  rw [State.powerOn, State.resetCore_read]
  split
  · next h => rw [State.setMem_mem, powerOnMemory_read _ h]
  · next h => rw [initialByte_program _ (by omega)]

theorem State.resetCore_wf (h : s.mem.wf = true) : s.resetCore.mem.wf = true := Memory.wf_filter _ _ h

theorem State.powerOn_wf : s.powerOn.mem.wf = true := by
  have h := powerOnMemory_wf s.config
  rw [State.powerOn]
  generalize powerOnMemory s.config = m at h
  exact State.resetCore_wf (s.setMem m) h

/-! ### Everything else -/

/-- A reset core is the state after PowerOn under its own parameters, but for memory, inputs and outputs. -/
theorem State.resetCore_rest : s.resetCore =
    { State.reset with
      pc := s.config.resetPc, mem := s.resetCore.mem, key := s.key, rnd := s.rnd, draws := s.draws, diags := s.diags
      config := s.config } := rfl

theorem State.powerOn_rest : s.powerOn =
    { State.reset with
      pc := s.config.resetPc, mem := s.powerOn.mem, key := s.key, rnd := s.rnd, draws := s.draws, diags := s.diags
      config := s.config } := by
  rw [State.powerOn]
  generalize powerOnMemory s.config = m
  exact State.resetCore_rest (s.setMem m)

/-- Load answers by the size of the image and nothing else (70_reset_and_hazards.md R273). -/
theorem load_eq (rom : List Byte) :
    load rom s = if rom.length > 3584 then (.programTooLarge, s)
      else (.ok, s.resetCore.setMem (s.resetCore.mem.writeBytes 0x200 rom)) := rfl

end Sys2Proof.Machine
end

