-- ==== Sys2Proof/Laws/IndexMemory.lean ====
section
/-! SUPPORT. What the register loops of FX55 and FX65 and the digits of FX33 do (42_index_memory.md). -/

namespace Sys2Proof.Machine

variable (s : State)

theorem Fin.ofNat_val_of_lt {k : Nat} (h : k < 16) : (Fin.ofNat 16 k).val = k := by
  simp [Fin.ofNat, Nat.mod_eq_of_lt h]

/-- After storing the first `n` registers, the bytes from `I` are those registers and every other byte is as before. -/
theorem storeRegs_read (n : Nat) (a : Nat) :
    (storeRegs s n).read a =
      if s.i.toNat ≤ a ∧ a < s.i.toNat + n then s.reg (Fin.ofNat 16 (a - s.i.toNat)) else s.mem.read a := by
  induction n with
  | zero => rw [storeRegs, if_neg (by omega)]
  | succ n ih =>
    rw [storeRegs, Memory.read_write, State.dataAddr, ih]
    by_cases h : a = s.i.toNat + n
    · subst h
      rw [if_pos rfl, if_pos (by omega), Nat.add_sub_cancel_left]
    · rw [if_neg h]
      by_cases h2 : s.i.toNat ≤ a ∧ a < s.i.toNat + n
      · rw [if_pos h2, if_pos (by omega)]
      · rw [if_neg h2, if_neg (by omega)]

theorem storeRegs_wf (n : Nat) (h : s.mem.wf = true) (hb : s.i.toNat + n ≤ 4096) : (storeRegs s n).wf = true := by
  induction n with
  | zero => exact h
  | succ n ih => exact Memory.wf_write _ _ _ (ih (by omega)) (by simp only [State.dataAddr]; omega)

/-- After loading the first `n` registers, those registers hold the bytes from `I` and the others are as before. -/
theorem loadRegs_reg (n : Nat) (hn : n ≤ 16) (r : Reg) :
    (loadRegs s n).reg r = if r.val < n then s.mem.read (s.i.toNat + r.val) else s.reg r := by
  induction n with
  | zero => simp [loadRegs]
  | succ n ih =>
    have hv := Fin.ofNat_val_of_lt (k := n) (by omega)
    rw [loadRegs, State.reg_setReg, ih (by omega), State.dataAddr]
    by_cases h : r = Fin.ofNat 16 n
    · rw [if_pos h, if_pos (by rw [h, hv]; omega), h, hv]
    · have : r.val ≠ n := fun e => h (Fin.ext (e.trans hv.symm))
      rw [if_neg h]
      by_cases h2 : r.val < n
      · rw [if_pos h2, if_pos (by omega)]
      · rw [if_neg h2, if_neg (by omega)]

/-- A load writes registers alone. -/
theorem loadRegs_rest (n : Nat) : loadRegs s n = { s with v := (loadRegs s n).v } := by
  induction n with
  | zero => rfl
  | succ n ih => rw [loadRegs, ih]; rfl

theorem bcdDigits_length (b : Byte) : (bcdDigits b).length = 3 := rfl

/-- The digits are whole bytes 0 to 9, hundreds first (R173). -/
theorem bcdDigits_toNat (b : Byte) :
    (bcdDigits b).map BitVec.toNat = [b.toNat / 100, b.toNat / 10 % 10, b.toNat % 10] := by
  have := b.isLt
  simp [bcdDigits]
  omega

end Sys2Proof.Machine
end

