-- ==== Sys2Proof/Laws/PerInstr.lean ====
section
/-! SUPPORT. Facts about each instruction as syntax, one lemma per constructor. -/

namespace Sys2Proof.Laws

/-- The instruction's canonical word stands in the instruction's own row of R100, and its operands are in range. -/
def TableRow.Statement (i : Instr) : Prop := encode i &&& i.mask = i.matchBits ∧ i.wellFormed = true

theorem TableRow.cls : TableRow.Statement (.cls) :=
  ⟨by decide, rfl⟩
theorem TableRow.ret : TableRow.Statement (.ret) :=
  ⟨by decide, rfl⟩
theorem TableRow.jp (nnn : Nnn) : TableRow.Statement (.jp nnn) :=
  ⟨(packNNN_and _ _).trans rfl, by simp [Instr.wellFormed]⟩
theorem TableRow.call (nnn : Nnn) : TableRow.Statement (.call nnn) :=
  ⟨(packNNN_and _ _).trans rfl, by simp [Instr.wellFormed]⟩
theorem TableRow.seImm (x : Reg) (kk : Byte) : TableRow.Statement (.seImm x kk) :=
  ⟨(packXKK_and _ _ _).trans rfl, by simp [Instr.wellFormed]⟩
theorem TableRow.sneImm (x : Reg) (kk : Byte) : TableRow.Statement (.sneImm x kk) :=
  ⟨(packXKK_and _ _ _).trans rfl, by simp [Instr.wellFormed]⟩
theorem TableRow.seReg (x y : Reg) : TableRow.Statement (.seReg x y) :=
  ⟨(packXYN_and _ _ _ _).trans rfl, by simp [Instr.wellFormed]⟩
theorem TableRow.sneReg (x y : Reg) : TableRow.Statement (.sneReg x y) :=
  ⟨(packXYN_and _ _ _ _).trans rfl, by simp [Instr.wellFormed]⟩
theorem TableRow.ldImm (x : Reg) (kk : Byte) : TableRow.Statement (.ldImm x kk) :=
  ⟨(packXKK_and _ _ _).trans rfl, by simp [Instr.wellFormed]⟩
theorem TableRow.addImm (x : Reg) (kk : Byte) : TableRow.Statement (.addImm x kk) :=
  ⟨(packXKK_and _ _ _).trans rfl, by simp [Instr.wellFormed]⟩
theorem TableRow.ldReg (x y : Reg) : TableRow.Statement (.ldReg x y) :=
  ⟨(packXYN_and_low _ _ _ _).trans rfl, by simp [Instr.wellFormed]⟩
theorem TableRow.orReg (x y : Reg) : TableRow.Statement (.orReg x y) :=
  ⟨(packXYN_and_low _ _ _ _).trans rfl, by simp [Instr.wellFormed]⟩
theorem TableRow.andReg (x y : Reg) : TableRow.Statement (.andReg x y) :=
  ⟨(packXYN_and_low _ _ _ _).trans rfl, by simp [Instr.wellFormed]⟩
theorem TableRow.xorReg (x y : Reg) : TableRow.Statement (.xorReg x y) :=
  ⟨(packXYN_and_low _ _ _ _).trans rfl, by simp [Instr.wellFormed]⟩
theorem TableRow.addReg (x y : Reg) : TableRow.Statement (.addReg x y) :=
  ⟨(packXYN_and_low _ _ _ _).trans rfl, by simp [Instr.wellFormed]⟩
theorem TableRow.subReg (x y : Reg) : TableRow.Statement (.subReg x y) :=
  ⟨(packXYN_and_low _ _ _ _).trans rfl, by simp [Instr.wellFormed]⟩
theorem TableRow.shr (x y : Reg) : TableRow.Statement (.shr x y) :=
  ⟨(packXYN_and_low _ _ _ _).trans rfl, by simp [Instr.wellFormed]⟩
theorem TableRow.subnReg (x y : Reg) : TableRow.Statement (.subnReg x y) :=
  ⟨(packXYN_and_low _ _ _ _).trans rfl, by simp [Instr.wellFormed]⟩
theorem TableRow.shl (x y : Reg) : TableRow.Statement (.shl x y) :=
  ⟨(packXYN_and_low _ _ _ _).trans rfl, by simp [Instr.wellFormed]⟩
theorem TableRow.ldI (nnn : Nnn) : TableRow.Statement (.ldI nnn) :=
  ⟨(packNNN_and _ _).trans rfl, by simp [Instr.wellFormed]⟩
theorem TableRow.jpV0 (nnn : Nnn) : TableRow.Statement (.jpV0 nnn) :=
  ⟨(packNNN_and _ _).trans rfl, by simp [Instr.wellFormed]⟩
theorem TableRow.rnd (x : Reg) (kk : Byte) : TableRow.Statement (.rnd x kk) :=
  ⟨(packXKK_and _ _ _).trans rfl, by simp [Instr.wellFormed]⟩
theorem TableRow.drw (x y : Reg) (n : RowCount) : TableRow.Statement (.drw x y n) :=
  ⟨(packXYN_and _ _ _ _).trans rfl, by simp [Instr.wellFormed]⟩
theorem TableRow.skp (x : Reg) : TableRow.Statement (.skp x) :=
  ⟨(packXKK_and_low _ _ _).trans rfl, by simp [Instr.wellFormed]⟩
theorem TableRow.sknp (x : Reg) : TableRow.Statement (.sknp x) :=
  ⟨(packXKK_and_low _ _ _).trans rfl, by simp [Instr.wellFormed]⟩
theorem TableRow.ldVxDt (x : Reg) : TableRow.Statement (.ldVxDt x) :=
  ⟨(packXKK_and_key _ _ _).trans rfl, by simp [Instr.wellFormed]⟩
theorem TableRow.ldDtVx (x : Reg) : TableRow.Statement (.ldDtVx x) :=
  ⟨(packXKK_and_key _ _ _).trans rfl, by simp [Instr.wellFormed]⟩
theorem TableRow.ldStVx (x : Reg) : TableRow.Statement (.ldStVx x) :=
  ⟨(packXKK_and_key _ _ _).trans rfl, by simp [Instr.wellFormed]⟩
theorem TableRow.ldVxK (x : Reg) : TableRow.Statement (.ldVxK x) :=
  ⟨(packXKK_and_key _ _ _).trans rfl, by simp [Instr.wellFormed]⟩
theorem TableRow.addI (x : Reg) : TableRow.Statement (.addI x) :=
  ⟨(packXKK_and_key _ _ _).trans rfl, by simp [Instr.wellFormed]⟩
theorem TableRow.ldF (x : Reg) : TableRow.Statement (.ldF x) :=
  ⟨(packXKK_and_key _ _ _).trans rfl, by simp [Instr.wellFormed]⟩
theorem TableRow.ldB (x : Reg) : TableRow.Statement (.ldB x) :=
  ⟨(packXKK_and_key _ _ _).trans rfl, by simp [Instr.wellFormed]⟩
theorem TableRow.ldMemVx (x : Reg) : TableRow.Statement (.ldMemVx x) :=
  ⟨(packXKK_and_key _ _ _).trans rfl, by simp [Instr.wellFormed]⟩
theorem TableRow.ldVxMem (x : Reg) : TableRow.Statement (.ldVxMem x) :=
  ⟨(packXKK_and_key _ _ _).trans rfl, by simp [Instr.wellFormed]⟩

end Sys2Proof.Laws
end

