-- ==== Sys2Proof/Laws/Raster.lean ====
section
/-! SUPPORT. The rasterizer, pixel by pixel: drawing a sprite toggles exactly the pixels `spritePixel` names, and the
collision flag says whether one of those was set (43_display.md R191 (d): no two sprite bits meet on one pixel). -/

namespace Sys2Proof.Machine

theorem pixel_togglePixel (d : Display) (x px : Fin 64) (y py : Fin 32) (bit : Bool) :
    pixel (togglePixel d x y bit) px py = (pixel d px py ^^ (bit && decide (px = x ∧ py = y))) := by
  unfold pixel togglePixel
  simp only [Fin.getElem_fin, Vector.getElem_set]
  by_cases hy : py = y
  · subst hy
    cases bit
    · simp
    · have := px.isLt
      simp [Fin.ext_iff, eq_comm]
  · have : ¬ (y.val = py.val) := fun h => hy (Fin.ext h.symm)
    simp [hy, this]

@[simp] theorem pixel_clearDisplay (px : Fin 64) (py : Fin 32) : pixel clearDisplay px py = false := by
  simp [pixel, clearDisplay]

/-- Displays with the same pixels are the same. -/
theorem display_ext {d e : Display} (h : ∀ px py, pixel d px py = pixel e px py) : d = e := by
  apply Vector.ext
  intro y hy
  apply BitVec.eq_of_getLsbD_eq
  intro x hx
  exact h ⟨x, hx⟩ ⟨y, hy⟩

/-- The column of the sprite a display column shows. -/
def spriteCol (sp : Sprite) (px : Fin 64) : Nat := (px.val + (64 - sp.left % 64)) % 64

/-- The row of the sprite a display row shows. -/
def spriteRow (sp : Sprite) (py : Fin 32) : Nat := (py.val + (32 - sp.top % 32)) % 32

theorem eq_target_col (sp : Sprite) (px : Fin 64) {col : Nat} (h : col < 64) :
    px = Fin.ofNat 64 (sp.left + col) ↔ spriteCol sp px = col := by
  have := px.isLt
  simp only [Fin.ext_iff, Fin.val_ofNat, spriteCol]
  omega

theorem eq_target_row (sp : Sprite) (py : Fin 32) {row : Nat} (h : row < 32) :
    py = Fin.ofNat 32 (sp.top + row) ↔ spriteRow sp py = row := by
  have := py.isLt
  simp only [Fin.ext_iff, Fin.val_ofNat, spriteRow]
  omega

/-- What a canvas has become after the sprite bits of the region `p` have been drawn on canvas `c`. -/
structure Drawn (c c' : Canvas) (p : Fin 64 → Fin 32 → Bool) : Prop where
  pixels : ∀ px py, pixel c'.pixels px py = (pixel c.pixels px py ^^ p px py)
  collision : c'.collision = true ↔ c.collision = true ∨ ∃ px py, pixel c.pixels px py = true ∧ p px py = true

theorem Drawn.nothing (c : Canvas) : Drawn c c fun _ _ => false := ⟨by simp, by simp⟩

/-- Regions that do not meet are drawn one after the other. -/
theorem Drawn.trans {c c' c'' : Canvas} {p q : Fin 64 → Fin 32 → Bool} (h : Drawn c c' p) (h' : Drawn c' c'' q)
    (hd : ∀ px py, p px py = true → q px py = false) : Drawn c c'' fun px py => p px py || q px py := by
  constructor
  · intro px py
    rw [h'.pixels, h.pixels]
    cases hp : p px py
    · simp
    · simp [hd px py hp]
  · rw [h'.collision, h.collision, or_assoc]
    apply or_congr_right
    constructor
    · rintro (⟨px, py, h1, h2⟩ | ⟨px, py, h1, h2⟩)
      · exact ⟨px, py, h1, by simp [h2]⟩
      · have hp : p px py = false := by
          cases hp : p px py
          · rfl
          · rw [hd px py hp] at h2; cases h2
        rw [h.pixels, hp] at h1
        exact ⟨px, py, by simpa using h1, by simp [h2]⟩
    · rintro ⟨px, py, h1, h2⟩
      cases hp : p px py
      · refine .inr ⟨px, py, ?_, by simpa [hp] using h2⟩
        rw [h.pixels, hp]; simpa using h1
      · exact .inl ⟨px, py, h1, hp⟩

theorem Drawn.congr {c c' : Canvas} {p q : Fin 64 → Fin 32 → Bool} (h : Drawn c c' p)
    (e : ∀ px py, p px py = q px py) : Drawn c c' q := by
  obtain rfl : p = q := funext fun px => funext fun py => e px py
  exact h

theorem drawBit_drawn (sp : Sprite) {row col : Nat} (hr : row < 32) (hc : col < 64) (b : Byte) (c : Canvas) :
    Drawn c (drawBit sp row col b c) fun px py =>
      spriteBit sp.msbFirst b col && decide (spriteCol sp px = col ∧ spriteRow sp py = row) := by
  constructor
  · intro px py
    simp only [drawBit, pixel_togglePixel, eq_target_col sp px hc, eq_target_row sp py hr]
  · simp only [drawBit, Bool.or_eq_true, Bool.and_eq_true, decide_eq_true_eq]
    apply or_congr_right
    constructor
    · rintro ⟨h1, h2⟩
      exact ⟨_, _, h1, h2, (eq_target_col sp _ hc).1 rfl, (eq_target_row sp _ hr).1 rfl⟩
    · rintro ⟨px, py, h1, h2, h3, h4⟩
      rw [← (eq_target_col sp px hc).2 h3, ← (eq_target_row sp py hr).2 h4]
      exact ⟨h1, h2⟩

theorem drawColumns_drawn (sp : Sprite) {row : Nat} (hr : row < 32) (b : Byte) (c : Canvas) (n : Nat) (hn : n ≤ 8) :
    Drawn c (drawColumns sp row b c n) fun px py =>
      decide (spriteCol sp px < n ∧ spriteRow sp py = row) && spriteBit sp.msbFirst b (spriteCol sp px) := by
  induction n with
  | zero => exact (Drawn.nothing c).congr (by simp)
  | succ n ih =>
    refine ((ih (by omega)).trans (drawBit_drawn sp hr (by omega) b _) ?_).congr ?_
    · intro px py h
      simp only [Bool.and_eq_true, decide_eq_true_eq] at h
      simp [show spriteCol sp px ≠ n by omega]
    · intro px py
      rw [Bool.eq_iff_iff]
      simp only [Bool.or_eq_true, Bool.and_eq_true, decide_eq_true_eq]
      constructor
      · rintro (⟨⟨h1, h2⟩, h3⟩ | ⟨h1, h2, h3⟩)
        · exact ⟨⟨by omega, h2⟩, h3⟩
        · exact ⟨⟨by omega, h3⟩, h2 ▸ h1⟩
      · rintro ⟨⟨h1, h2⟩, h3⟩
        rcases Nat.lt_or_ge (spriteCol sp px) n with h | h
        · exact .inl ⟨⟨h, h2⟩, h3⟩
        · have : spriteCol sp px = n := by omega
          exact .inr ⟨this ▸ h3, this, h2⟩

/-- The rows `bs`, drawn from row number `row` on. -/
def rowsPixel (sp : Sprite) (row : Nat) (bs : List Byte) (px : Fin 64) (py : Fin 32) : Bool :=
  decide (spriteCol sp px < 8 ∧ row ≤ spriteRow sp py) &&
    match bs[spriteRow sp py - row]? with
    | some b => spriteBit sp.msbFirst b (spriteCol sp px)
    | none => false

theorem drawRows_drawn (sp : Sprite) (row : Nat) (bs : List Byte) (c : Canvas) (h : row + bs.length ≤ 32) :
    Drawn c (drawRows sp row bs c) (rowsPixel sp row bs) := by
  induction bs generalizing row c with
  | nil => exact (Drawn.nothing c).congr (by simp [rowsPixel])
  | cons b bs ih =>
    simp only [List.length_cons] at h
    refine ((drawColumns_drawn sp (by omega) b c 8 (Nat.le_refl 8)).trans (ih (row + 1) _ (by omega)) ?_).congr ?_
    · intro px py h
      simp only [Bool.and_eq_true, decide_eq_true_eq] at h
      simp [rowsPixel, h.1.2]
    · intro px py
      simp only [rowsPixel]
      rcases Nat.lt_trichotomy (spriteRow sp py) row with hlt | heq | hgt
      · simp [show spriteRow sp py ≠ row by omega, show ¬ (row ≤ spriteRow sp py) by omega,
          show ¬ (row + 1 ≤ spriteRow sp py) by omega]
      · simp [heq]
      · have e : spriteRow sp py - row = (spriteRow sp py - (row + 1)) + 1 := by omega
        simp [show spriteRow sp py ≠ row by omega, show row ≤ spriteRow sp py by omega,
          show row + 1 ≤ spriteRow sp py by omega, e]

theorem rowsPixel_zero (sp : Sprite) (px : Fin 64) (py : Fin 32) :
    rowsPixel sp 0 sp.rows px py = spritePixel sp px py := by
  simp only [rowsPixel, spritePixel, spriteCol, spriteRow, Nat.zero_le, and_true, Nat.sub_zero]
  split <;> simp [*]

/-- Drawing a sprite of at most 32 rows (a DXYN has at most 15). -/
theorem drawSprite_drawn (sp : Sprite) (d : Display) (h : sp.rows.length ≤ 32) :
    Drawn { pixels := d, collision := false } (drawSprite sp d) (spritePixel sp) :=
  (drawRows_drawn sp 0 sp.rows _ (by omega)).congr (rowsPixel_zero sp)

theorem drawSprite_pixel (sp : Sprite) (d : Display) (h : sp.rows.length ≤ 32) (px : Fin 64) (py : Fin 32) :
    pixel (drawSprite sp d).pixels px py = (pixel d px py ^^ spritePixel sp px py) :=
  (drawSprite_drawn sp d h).pixels px py

theorem drawSprite_collision (sp : Sprite) (d : Display) (h : sp.rows.length ≤ 32) :
    (drawSprite sp d).collision = true ↔ ∃ px py, pixel d px py = true ∧ spritePixel sp px py = true := by
  simpa using (drawSprite_drawn sp d h).collision

@[simp] theorem State.sprite_rows_length (s : State) (x y : Reg) (n : Nat) : (s.sprite x y n).rows.length = n := by
  simp [State.sprite, State.dataBytes]

end Sys2Proof.Machine
end

