-- ==== Sys2Proof/Laws/Step.lean ====
section
/-! SUPPORT. What a step can do, once: halted, a fetch fault, an instruction, an unknown word. -/

namespace Sys2Proof.Machine

variable {s t : State} {w : Opcode} {i : Instr}

theorem fetchWord_some (h : s.pc.toNat ≤ 0xFFE) :
    fetchWord s = some (wordOfBytes (s.mem.read s.pc.toNat) (s.mem.read (s.pc.toNat + 1))) := by
  rw [fetchWord, if_neg (by omega)]

theorem fetchWord_none (h : s.pc.toNat > 0xFFE) : fetchWord s = none := by
  rw [fetchWord, if_pos h]

theorem pc_of_fetchWord (h : fetchWord s = some w) : s.pc.toNat ≤ 0xFFE := by
  rw [fetchWord] at h
  split at h
  · simp at h
  · omega

/-- A fetch depends on `pc` and memory alone. -/
theorem fetchWord_congr (hp : t.pc = s.pc) (hm : t.mem = s.mem) : fetchWord t = fetchWord s := by
  simp only [fetchWord, hp, hm]

theorem State.retire_running (h : t.halted = false) : t.retire w = { t with opreg := w }.tick := by
  simp [State.retire, h]

theorem State.retire_halted (h : t.halted = true) : t.retire w = t := by simp [State.retire, h]

/-- Retiring neither sets nor clears a fault. -/
@[simp] theorem State.retire_faultCause (t : State) (w : Opcode) : (t.retire w).faultCause = t.faultCause := by
  unfold State.retire; split <;> rfl

theorem step_halted (h : s.halted = true) : step s = .next s := by simp [step, h]

theorem step_fetch_fault (hr : s.halted = false) (hf : fetchWord s = none) :
    step s = .next (s.enterFault .fetchOutOfBounds s.pc s.pc) := by simp [step, hr, hf]

theorem step_instr (hr : s.halted = false) (hf : fetchWord s = some w) (hd : decode w = .ok i)
    (he : exec i s.advance = .next t) : step s = .next (t.retire w) := by
  simp [step, hr, hf, runWord, hd, he]

theorem step_unknown {e : DecodeError} (hr : s.halted = false) (hf : fetchWord s = some w)
    (hd : decode w = .error e) : step s = .next ((s.advance.emitDiag w).retire w) := by
  simp [step, hr, hf, runWord, hd, execUnknown]

/-- The ways a step can answer a next state. -/
inductive StepCase (s t : State) : Prop where
  | halted (h : s.halted = true) (e : t = s)
  | fetchFault (hr : s.halted = false) (hf : fetchWord s = none) (e : t = s.enterFault .fetchOutOfBounds s.pc s.pc)
  | instr (w : Opcode) (i : Instr) (u : State) (hr : s.halted = false) (hf : fetchWord s = some w)
      (hd : decode w = .ok i) (he : exec i s.advance = .next u) (e : t = u.retire w)
  | unknown (w : Opcode) (err : DecodeError) (hr : s.halted = false) (hf : fetchWord s = some w)
      (hd : decode w = .error err) (e : t = (s.advance.emitDiag w).retire w)

theorem step_cases (h : step s = .next t) : StepCase s t := by
  cases hr : s.halted with
  | true =>
    rw [step_halted hr] at h
    exact .halted hr (Host.Outcome.next.inj h).symm
  | false =>
    cases hf : fetchWord s with
    | none =>
      rw [step_fetch_fault hr hf] at h
      exact .fetchFault hr hf (Host.Outcome.next.inj h).symm
    | some w =>
      cases hd : decode w with
      | error e =>
        rw [step_unknown hr hf hd] at h
        exact .unknown w e hr hf hd (Host.Outcome.next.inj h).symm
      | ok i =>
        cases he : exec i s.advance with
        | next u =>
          rw [step_instr hr hf hd he] at h
          exact .instr w i u hr hf hd he (Host.Outcome.next.inj h).symm
        | fault r => cases r
        | refused r => simp [step, hr, hf, runWord, hd, he] at h

end Sys2Proof.Machine
end

