-- ==== Sys2Proof/Tests/Slice0.lean ====
section
/-! SUPPORT. The model's own tests: expected results are the words of 30_encoding.md R100 and R97 and the vectors of
95_test_vectors.md (named V<n>), then for each statement with hypotheses a witness that meets them. -/

namespace Sys2Proof.Tests

open Sys2Proof Sys2Proof.Machine

/-! ### Well-formedness refuses -/

theorem test_wellformed_refuses_register : regInRange 16 = false := by decide
theorem test_wellformed_refuses_immediate : immInRange 256 = false := by decide
theorem test_wellformed_refuses_address : addrInRange 0x1000 = false := by decide
theorem test_wellformed_refuses_rows : rowsInRange 16 = false := by decide
theorem test_wellformed_accepts_highest :
    (regInRange 15 && immInRange 255 && addrInRange 0xFFF && rowsInRange 15) = true := by decide

/-! ### Decoding, words written out from the patterns of R100 -/

theorem test_decode_control :
    decode 0x00E0 = .ok .cls ∧ decode 0x00EE = .ok .ret ∧ decode 0x1204 = .ok (.jp 0x204) ∧
    decode 0x2FFE = .ok (.call 0xFFE) ∧ decode 0x3A5C = .ok (.seImm 10 0x5C) ∧ decode 0x4311 = .ok (.sneImm 3 0x11) ∧
    decode 0x5120 = .ok (.seReg 1 2) ∧ decode 0x9120 = .ok (.sneReg 1 2) ∧ decode 0xB300 = .ok (.jpV0 0x300) := by decide

theorem test_decode_registers :
    decode 0x609C = .ok (.ldImm 0 0x9C) ∧ decode 0x70FF = .ok (.addImm 0 0xFF) ∧ decode 0x8120 = .ok (.ldReg 1 2) ∧
    decode 0x8121 = .ok (.orReg 1 2) ∧ decode 0x8122 = .ok (.andReg 1 2) ∧ decode 0x8123 = .ok (.xorReg 1 2) ∧
    decode 0x8124 = .ok (.addReg 1 2) ∧ decode 0x8125 = .ok (.subReg 1 2) ∧ decode 0x8126 = .ok (.shr 1 2) ∧
    decode 0x8127 = .ok (.subnReg 1 2) ∧ decode 0x812E = .ok (.shl 1 2) ∧ decode 0xC10F = .ok (.rnd 1 0x0F) := by decide

theorem test_decode_index_display :
    decode 0xAFFF = .ok (.ldI 0xFFF) ∧ decode 0xF21E = .ok (.addI 2) ∧ decode 0xF029 = .ok (.ldF 0) ∧
    decode 0xF133 = .ok (.ldB 1) ∧ decode 0xF255 = .ok (.ldMemVx 2) ∧ decode 0xFF65 = .ok (.ldVxMem 15) ∧
    decode 0xD01F = .ok (.drw 0 1 15) := by decide

theorem test_decode_key_timer :
    decode 0xE29E = .ok (.skp 2) ∧ decode 0xE2A1 = .ok (.sknp 2) ∧ decode 0xF107 = .ok (.ldVxDt 1) ∧
    decode 0xF20A = .ok (.ldVxK 2) ∧ decode 0xF015 = .ok (.ldDtVx 0) ∧ decode 0xF418 = .ok (.ldStVx 4) := by decide

/-- R97: the ignored bits. -/
theorem test_decode_aliases :
    decode 0x0000 = .ok .cls ∧ decode 0x0FF0 = .ok .cls ∧ decode 0x0ABE = .ok .ret ∧ decode 0x5121 = .ok (.seReg 1 2) ∧
    decode 0x912F = .ok (.sneReg 1 2) ∧ decode 0xE2FE = .ok (.skp 2) ∧ decode 0xE201 = .ok (.sknp 2) := by decide

/-- V7.1 to V7.8. -/
theorem test_decode_unknown :
    decode 0x0123 = .error (.unknownOpcode 0x0123) ∧ decode 0x00FD = .error (.unknownOpcode 0x00FD) ∧
    decode 0x8128 = .error (.unknownOpcode 0x8128) ∧ decode 0x8009 = .error (.unknownOpcode 0x8009) ∧
    decode 0xE29F = .error (.unknownOpcode 0xE29F) ∧ decode 0xE000 = .error (.unknownOpcode 0xE000) ∧
    decode 0xF21F = .error (.unknownOpcode 0xF21F) ∧ decode 0xF134 = .error (.unknownOpcode 0xF134) := by decide

theorem test_decode_too_few_bytes : decodeBytes [0x00] = .error (.truncated 1) := by decide

theorem test_encode : encode (.drw 13 1 5) = 0xDD15 ∧ encode (.call 0x20A) = 0x220A ∧ encode (.skp 2) = 0xE29E := by decide

/-! ### One step -/

/-- `s` after one step that fetches the word `w`. -/
def after (w : Nat) (s : State) : Option State := nextState (step (s.withFetchWord 16 w))

/-- The register `r` of `after`. -/
def regOf (w : Nat) (s : State) (r : Reg) : Option Byte := (after w s).map fun t => t.reg r

/-- The program counter of `after`. -/
def pcOf (w : Nat) (s : State) : Option Addr := (after w s).map fun t => t.pc

/-- The fault registers of `after`. -/
def faultRegs (w : Nat) (s : State) : Option (BitVec 3 × Addr × Addr) :=
  (after w s).map fun t => (t.faultCause, t.faultPc, t.faultInfo)

/-- `n` bytes of memory from `a` in `after`. -/
def bytesOf (w : Nat) (s : State) (a n : Nat) : Option (List Byte) :=
  (after w s).map fun t => (List.range n).map fun k => t.mem.read (a + k)

/-- Row `y` of the display of `after`. -/
def rowOf (w : Nat) (s : State) (y : Fin 32) : Option (BitVec 64) := (after w s).map fun t => t.display[y]

/-- The reset state with two registers set. -/
def regs2 (x : Reg) (a : Byte) (y : Reg) (b : Byte) : State := (State.reset.setReg x a).setReg y b

/-- The reset state with `I` and the bytes at it set. -/
def data (i : Addr) (bs : List Byte) : State := (State.reset.setIndex i).setMem (Memory.writeBytes [] i.toNat bs)

/-- V5.1: pixels 0 and 100. -/
def twoPixels : State := State.reset.setDisplay (togglePixel (togglePixel clearDisplay 0 0 true) 36 1 true)

theorem test_cls_V5_1 : (after 0x00E0 twoPixels).map (·.display) = some clearDisplay := by decide
theorem test_ret_V1_9 : pcOf 0x00EE { State.reset with sp := 16, stack := State.reset.stack.set 15 0x456 } = some 0x456 := by
  decide
theorem test_ret_V1_10 : faultRegs 0x00EE State.reset = some (4, 0x200, 0) := by decide
theorem test_jp_V1_2 : pcOf 0x1FFF State.reset = some 0xFFF := by decide
theorem test_call_V1_7 :
    (after 0x2FFE { State.reset with pc := 0xFFE }).map (fun t => (t.stack[0], t.sp, t.pc)) = some (0x1000, 1, 0xFFE) := by
  decide
theorem test_call_V1_6 : faultRegs 0x2300 { State.reset with sp := 16 } = some (3, 0x200, 0x10) := by decide
theorem test_seImm_V1_13 : pcOf 0x3000 { State.reset with pc := 0xFFE } = some 0x1002 := by decide
theorem test_sneImm_V1_14 : pcOf 0x4311 (({ State.reset with pc := 0x300 } : State).setReg 3 0x10) = some 0x304 := by decide
theorem test_seReg_V1_17 : pcOf 0x5121 (regs2 1 3 2 3) = some 0x204 := by decide
theorem test_sneReg_V1_20 : pcOf 0x912F (regs2 1 3 2 4) = some 0x204 := by decide
theorem test_jpV0_V1_23 : pcOf 0xBFFF (State.reset.setReg 0 0xFF) = some 0x10FE := by decide

theorem test_ldImm_V2_1 : regOf 0x609C State.reset 0 = some 0x9C := by decide
theorem test_addImm_V2_4 :
    regOf 0x7001 (regs2 0 0xFF 15 7) 0 = some 0 ∧ regOf 0x7001 (regs2 0 0xFF 15 7) 15 = some 7 := by decide
theorem test_ldReg_V2_5 : regOf 0x8120 (State.reset.setReg 2 0x33) 1 = some 0x33 := by decide
theorem test_orReg_V2_6 : regOf 0x8121 (regs2 1 0xF0 2 0x0F) 1 = some 0xFF := by decide
theorem test_andReg_V2_7 : regOf 0x8122 (regs2 1 0xF3 2 0x3F) 1 = some 0x33 := by decide
theorem test_xorReg_V2_8 : regOf 0x8123 (regs2 1 0xFF 2 0x0F) 1 = some 0xF0 := by decide
theorem test_addReg_V2_11 :
    regOf 0x8014 (regs2 0 0xFF 1 1) 0 = some 0 ∧ regOf 0x8014 (regs2 0 0xFF 1 1) 15 = some 1 := by decide
theorem test_addReg_V2_14 : regOf 0x8F14 (regs2 15 0xF0 1 0x20) 15 = some 0x10 := by decide
theorem test_subReg_V2_18 : regOf 0x8015 (regs2 0 7 1 7) 0 = some 0 ∧ regOf 0x8015 (regs2 0 7 1 7) 15 = some 0 := by decide
theorem test_subReg_V2_21 : regOf 0x8F15 (regs2 15 5 1 3) 15 = some 0xFE := by decide
theorem test_shr_V2_23 :
    regOf 0x8106 (State.reset.setReg 1 5) 1 = some 2 ∧ regOf 0x8106 (State.reset.setReg 1 5) 15 = some 1 := by decide
theorem test_shr_V2_25 : regOf 0x8F06 (State.reset.setReg 15 3) 15 = some 0 := by decide
theorem test_subnReg_V2_29 : regOf 0x80F7 (regs2 15 9 0 4) 0 = some 0xFD ∧ regOf 0x80F7 (regs2 15 9 0 4) 15 = some 1 := by
  decide
theorem test_subnReg_V2_30 : regOf 0x8F17 (regs2 1 7 15 2) 15 = some 6 := by decide
theorem test_shl_V2_31 :
    regOf 0x811E (State.reset.setReg 1 0x81) 1 = some 2 ∧ regOf 0x811E (State.reset.setReg 1 0x81) 15 = some 1 := by decide
theorem test_shl_V2_33 : regOf 0x8F0E (State.reset.setReg 15 0x81) 15 = some 2 := by decide
theorem test_rnd_V2_34 : regOf 0xC10F (State.reset.present 0 0xA7) 1 = some 7 := by decide

theorem test_ldI_V3_1 : (after 0xAFFF { State.reset with i := 0xFFFF }).map (·.i) = some 0xFFF := by decide
theorem test_addI_V3_4 :
    (after 0xF01E ((regs2 0 1 15 9).setIndex 0xFFFF)).map (fun t => (t.i, t.reg 15)) = some (0, 9) := by decide
theorem test_ldF_V3_8 : (after 0xF029 (State.reset.setReg 0 0xFF)).map (·.i) = some 0x54B := by decide
theorem test_ldB_V3_14 :
    bytesOf 0xF033 ((State.reset.setReg 0 255).setIndex 0xFFD) 0xFFD 3 = some [2, 5, 5] := by decide
theorem test_ldB_V3_15 : faultRegs 0xF033 ((State.reset.setReg 0 255).setIndex 0xFFE) = some (2, 0x200, 0x1000) := by decide
theorem test_ldMemVx_V3_17 :
    bytesOf 0xF255 (((regs2 0 10 1 11).setReg 2 12).setIndex 0x300) 0x300 4 = some [10, 11, 12, 0] := by decide
theorem test_ldMemVx_V3_19 : bytesOf 0xF155 ((regs2 0 0xAB 1 0xCD).setIndex 0xFFF) 0xFFF 1 = some [0] := by decide
theorem test_ldVxMem_V3_23 : (List.finRange 5).map (fun k => regOf 0xF465 { State.reset with i := 0x50 } (Fin.ofNat 16 k)) =
    [some 0xF0, some 0x90, some 0x90, some 0x90, some 0xF0] := by decide
theorem test_ldVxMem_V3_22 : faultRegs 0xFF65 { State.reset with i := 0xFF1 } = some (2, 0x200, 0x1000) := by decide

theorem test_drw_V5_4 :
    rowOf 0xD011 ((data 0x300 [0xFF]).setReg 0 60) 0 = some 0xF00000000000000F ∧
    regOf 0xD011 ((data 0x300 [0xFF]).setReg 0 60) 15 = some 0 := by decide
theorem test_drw_V5_10 :
    rowOf 0xD011 ((data 0x300 [0xC0]).setDisplay (togglePixel clearDisplay 1 0 true)) 0 = some 1 ∧
    regOf 0xD011 ((data 0x300 [0xC0]).setDisplay (togglePixel clearDisplay 1 0 true)) 15 = some 1 := by decide

theorem test_skp_V6_1 : pcOf 0xE29E ((State.reset.setReg 2 10).present 0x0400 0) = some 0x204 := by decide
theorem test_skp_V6_5 : faultRegs 0xE29E (State.reset.setReg 2 0x10) = some (5, 0x200, 0x10) := by decide
theorem test_sknp_V6_7 : pcOf 0xE2A1 ((State.reset.setReg 2 10).present 0x0400 0) = some 0x202 := by decide
theorem test_sknp_V6_9 : faultRegs 0xE2A1 (State.reset.setReg 2 0xFF) = some (5, 0x200, 0xFF) := by decide
theorem test_ldVxDt_V6_15 :
    (after 0xF107 { State.reset with dt := 2 }).map (fun t => (t.reg 1, t.dt)) = some (2, 1) := by decide
theorem test_ldVxK_V6_11 : regOf 0xF20A (State.reset.present 0x0210 0) 2 = some 9 := by decide
theorem test_ldVxK_V6_14 :
    (after 0xF20A { State.reset with dt := 1, st := 3 }).map (fun t => (t.pc, t.dt, t.st)) = some (0x200, 0, 2) := by decide
theorem test_ldDtVx_V6_18 : (after 0xF015 (State.reset.setReg 0 3)).map (·.dt) = some 2 := by decide
theorem test_ldStVx_V6_21 : (after 0xF418 (State.reset.setReg 4 0x10)).map (·.st) = some 15 := by decide

theorem test_unknown_V7_4 :
    (after 0xF000 { State.reset with dt := 5, st := 1 }).map (fun t => (t.diags, t.dt, t.st, t.pc)) =
      some ([0xF000], 4, 0, 0x202) := by decide
theorem test_fetch_fault_V8_3 :
    (nextState (step { State.reset with pc := 0x1000, dt := 7 })).map (fun t => (t.faultCause, t.faultPc, t.faultInfo, t.dt)) =
      some (1, 0x1000, 0x1000, 7) := by decide
theorem test_load_V8_6 :
    (load [0x12, 0x00] { State.reset with mem := [(0x60, 0xEE), (0x300, 0x77)] }).2.mem = [(0x60, 0xEE), (0x200, 0x12)] := by
  decide
theorem test_linear_cell :
    cellByte twoPixels.display 100 = 1 ∧ cellByte twoPixels.display 99 = 0 := by decide

/-! ### Parameters (R7) -/

theorem test_param_reset_pc :
    ({ State.reset with config := { Config.defaults with resetPc := 0 } } : State).resetCore.pc = 0 := by decide

/-- R192 read for the other bit order: columns 6 and 7. -/
theorem test_param_sprite_order :
    rowOf 0xD011 { data 0x300 [0xC0] with config := { Config.defaults with spriteMsbFirst := false } } 0 = some 0xC0 := by decide

/-- The codes of StackUnderflow and KeyIndexOutOfRange exchanged. -/
theorem test_param_fault_code :
    faultRegs 0x00EE { State.reset with
      config := { Config.defaults with faultCodes := { stackUnderflow := 5, keyIndexOutOfRange := 4 } } } = some (5, 0x200, 0) := by
  decide

theorem test_fault_codes_R231 :
    [FaultCause.fetchOutOfBounds, .dataOutOfBounds, .stackOverflow, .stackUnderflow, .keyIndexOutOfRange].map State.reset.code =
      [1, 2, 3, 4, 5] := by decide

/-! ### Witnesses: for each statement with hypotheses a state and operands that meet them, at the edges of each clause -/

/-- The reset state, about to fetch `w` at address `a`. -/
def fetching (a : Addr) (w : Nat) : State := ({ State.reset with pc := a } : State).withFetchWord 16 w

theorem test_witness_DecodeSelectsTheRowByMaskAndMatch :
    decode 0x0120 = .ok .cls ∧ (0x0120 : Opcode) &&& Instr.cls.mask = Instr.cls.matchBits ∧
    decode 0x0123 = .error (.unknownOpcode 0x0123) := by decide

theorem test_witness_StepRunsTheDecodedInstruction_running :
    (fetching 0xFFE 0x6001).faultCause = 0 ∧ (fetching 0xFFE 0x6001).pc.toNat ≤ 0xFFE ∧
    decode (wordOfBytes ((fetching 0xFFE 0x6001).mem.read 0xFFE) ((fetching 0xFFE 0x6001).mem.read 0xFFF)) = .ok (.ldImm 0 1) ∧
    ∃ t, exec (.ldImm 0 1) { fetching 0xFFE 0x6001 with pc := 0x1000 } = .next t ∧ t.faultCause = 0 :=
  ⟨by decide, by decide, by decide, _, rfl, by decide⟩

theorem test_witness_StepRunsTheDecodedInstruction_faulting :
    ∃ t, exec .ret { fetching 0x200 0x00EE with pc := 0x202 } = .next t ∧ t.faultCause ≠ 0 := ⟨_, rfl, by decide⟩

theorem test_witness_UnknownOpcodeIsADiagnosedNoOp :
    Fetches (fetching 0xFFE 0x0123) 0x0123 ∧ decode 0x0123 = .error (.unknownOpcode 0x0123) :=
  ⟨⟨by decide, by decide⟩, by decide⟩

theorem test_witness_HaltedStepChangesNothing : ({ State.reset with faultCause := 5 } : State).faultCause ≠ 0 := by decide

theorem test_witness_FetchIsBigEndianAndBounded :
    ({ State.reset with pc := 0xFFE } : State).pc.toNat ≤ 0xFFE ∧ ({ State.reset with pc := 0xFFF } : State).pc.toNat > 0xFFE ∧
    ({ State.reset with pc := 0xFFF } : State).faultCause = 0 := by decide

theorem test_witness_FaultsArePreciseAndHaltTheCore :
    (fetching 0x200 0x00EE).faultCause = 0 ∧ ∃ t, step (fetching 0x200 0x00EE) = .next t ∧ t.faultCause ≠ 0 :=
  ⟨by decide, _, rfl, by decide⟩

/-- One state for each cause of the table that the execute stage raises, at its edge, and the state just inside it. -/
theorem test_witness_FaultsAreRaisedByTheTable :
    faultOf (.call 0x300) { State.reset with sp := 16 } = some (.stackOverflow, 16) ∧
    faultOf (.call 0x300) { State.reset with sp := 15 } = none ∧
    faultOf .ret State.reset = some (.stackUnderflow, 0) ∧ faultOf .ret { State.reset with sp := 1 } = none ∧
    faultOf (.skp 2) (State.reset.setReg 2 16) = some (.keyIndexOutOfRange, 16) ∧
    faultOf (.skp 2) (State.reset.setReg 2 15) = none ∧
    faultOf (.drw 0 0 1) (State.reset.setIndex 0x1000) = some (.dataOutOfBounds, 0x1000) ∧
    faultOf (.drw 0 0 1) (State.reset.setIndex 0xFFF) = none ∧ faultOf (.drw 0 0 0) (State.reset.setIndex 0xFFFF) = none ∧
    faultOf (.ldB 0) (State.reset.setIndex 0xFFE) = some (.dataOutOfBounds, 0x1000) ∧
    faultOf (.ldB 0) (State.reset.setIndex 0xFFD) = none ∧
    faultOf (.ldMemVx 1) (State.reset.setIndex 0x2000) = some (.dataOutOfBounds, 0x2000) ∧
    faultOf (.ldVxMem 1) (State.reset.setIndex 0xFFE) = none := by decide

theorem test_witness_FaultsAreRaisedByTheTable_fetched :
    (fetching 0x200 0x00EE).faultCause = 0 ∧ fetchWord (fetching 0x200 0x00EE) = some 0x00EE ∧
    decode 0x00EE = .ok .ret ∧ faultOf .ret (fetching 0x200 0x00EE) = some (.stackUnderflow, 0) := by decide

theorem test_witness_ProgramCounterAfterEachStep_running :
    (fetching 0xFFE 0x3000).faultCause = 0 ∧ fetchWord (fetching 0xFFE 0x3000) = some 0x3000 ∧
    decode 0x3000 = .ok (.seImm 0 0) ∧ ∃ t, step (fetching 0xFFE 0x3000) = .next t ∧ t.faultCause = 0 :=
  ⟨by decide, by decide, by decide, _, rfl, by decide⟩

theorem test_witness_ProgramCounterAfterEachStep_unknown :
    (fetching 0x200 0x8128).faultCause = 0 ∧ fetchWord (fetching 0x200 0x8128) = some 0x8128 ∧
    decode 0x8128 = .error (.unknownOpcode 0x8128) ∧ ∃ t, step (fetching 0x200 0x8128) = .next t :=
  ⟨by decide, by decide, by decide, _, rfl⟩

theorem test_witness_ProgramCounterAfterEachStep_call :
    fetchWord (fetching 0xFFE 0x2FFE) = some 0x2FFE ∧ decode 0x2FFE = .ok (.call 0xFFE) ∧
    ∃ t, step (fetching 0xFFE 0x2FFE) = .next t ∧ t.faultCause = 0 := ⟨by decide, by decide, _, rfl, by decide⟩

theorem test_witness_TimersTickOncePerStep :
    fetchWord (fetching 0x200 0xF015) = some 0xF015 ∧ (∃ t, step (fetching 0x200 0xF015) = .next t ∧ t.faultCause = 0) ∧
    ∃ t, step (fetching 0x200 0x00EE) = .next t ∧ t.faultCause ≠ 0 :=
  ⟨by decide, ⟨_, rfl, by decide⟩, _, rfl, by decide⟩

theorem test_witness_OpcodeRegisterHoldsTheFetchedWord :
    fetchWord (fetching 0x200 0x8128) = some 0x8128 ∧ (∃ t, step (fetching 0x200 0x8128) = .next t ∧ t.faultCause = 0) ∧
    ∃ t, step { State.reset with pc := 0x1000 } = .next t ∧ t.faultCause ≠ 0 :=
  ⟨by decide, ⟨_, rfl, by decide⟩, _, rfl, by decide⟩

/-- A halted state with the record of `c` has the invariant, if the rest of it does. -/
theorem coreInv_halted {s : State} (c : FaultCause) (hm : s.mem.wf = true)
    (hp : s.pc.toNat ≤ max 0x10FE s.config.resetPc.toNat) (hs : ∀ k : Fin 16, (s.stack[k]).toNat ≤ 0x1000)
    (hc : s.faultCause ≠ 0) (hr : faultRecord c s) : CoreInv s := ⟨hm, hp, hs, fun h => absurd h hc, fun _ => ⟨c, hr⟩⟩

theorem test_witness_CoreInv_running : CoreInv State.reset :=
  ⟨by decide, by decide, by decide, by decide, fun h => absurd (by decide) h⟩

theorem test_witness_CoreInv_fetch :
    CoreInv { State.reset with pc := 0x10FE, faultCause := 1, faultPc := 0x10FE, faultInfo := 0x10FE } :=
  coreInv_halted .fetchOutOfBounds (by decide) (by decide) (by decide) (by decide) ⟨by decide, by decide, by decide, by decide⟩

theorem test_witness_CoreInv_data :
    CoreInv { State.reset with i := 0xFFF, faultCause := 2, faultPc := 0x200, faultInfo := 0x1000 } :=
  coreInv_halted .dataOutOfBounds (by decide) (by decide) (by decide) (by decide)
    ⟨by decide, by decide, show (0x1000 : Addr).toNat = max (0xFFF : Addr).toNat 0x1000 by decide⟩

theorem test_witness_CoreInv_overflow :
    CoreInv { State.reset with sp := 16, faultCause := 3, faultPc := 0x200, faultInfo := 16 } :=
  coreInv_halted .stackOverflow (by decide) (by decide) (by decide) (by decide) ⟨by decide, by decide, by decide, by decide⟩

theorem test_witness_CoreInv_underflow : CoreInv { State.reset with faultCause := 4, faultPc := 0x200 } :=
  coreInv_halted .stackUnderflow (by decide) (by decide) (by decide) (by decide) ⟨by decide, by decide, by decide, by decide⟩

theorem test_witness_CoreInv_key : CoreInv { State.reset with faultCause := 5, faultPc := 0x200, faultInfo := 16 } :=
  coreInv_halted .keyIndexOutOfRange (by decide) (by decide) (by decide) (by decide) ⟨by decide, by decide, by decide, by decide⟩

theorem test_witness_StepKeepsTheInvariant : CoreInv State.reset ∧ ∃ t, step State.reset = .next t :=
  ⟨test_witness_CoreInv_running, _, rfl⟩

theorem test_witness_HostOperationsKeepTheInvariant :
    CoreInv State.reset ∧ ∃ t, applyOp (.load [0x12, 0x00]) State.reset = .next t := ⟨test_witness_CoreInv_running, _, rfl⟩

theorem test_witness_EveryInstructionKeepsItsFrame :
    State.reset.faultCause = 0 ∧ (∃ t, exec (.subReg 1 2) State.reset = .next t ∧ t.faultCause = 0) ∧
    ∃ t, exec .ret State.reset = .next t ∧ t.faultCause ≠ 0 := ⟨by decide, ⟨_, rfl, by decide⟩, _, rfl, by decide⟩

theorem fetched_unique {s : State} {w w' : Opcode} (h : fetchWord s = some w) (h' : fetchWord s = some w') : w' = w := by
  rw [h] at h'; exact (Option.some.inj h').symm

theorem test_witness_OnlyRandomReadsTheRandomByte :
    (∀ w x kk, fetchWord State.reset = some w → decode w ≠ .ok (.rnd x kk)) ∧ ∃ t, step State.reset = .next t := by
  refine ⟨fun w x kk h => ?_, _, rfl⟩
  rw [fetched_unique (w := 0) (by decide) h, show decode 0 = .ok .cls by decide]
  simp

theorem test_witness_OnlyKeyInstructionsReadTheKeypad :
    (∀ w x, fetchWord State.reset = some w →
      decode w ≠ .ok (.skp x) ∧ decode w ≠ .ok (.sknp x) ∧ decode w ≠ .ok (.ldVxK x)) ∧ ∃ t, step State.reset = .next t := by
  refine ⟨fun w x h => ?_, _, rfl⟩
  rw [fetched_unique (w := 0) (by decide) h, show decode 0 = .ok .cls by decide]
  simp

/-- Two states that differ, in a stale entry only, and that have a live one. -/
theorem test_witness_StaleStackEntriesNeverMatter :
    SameButStale { State.reset with sp := 1 } { State.reset with sp := 1, stack := State.reset.stack.set 1 0x456 } ∧
    ∃ t, step { State.reset with sp := 1 } = .next t := ⟨⟨rfl, by decide⟩, _, rfl⟩

theorem test_witness_MemoryIsReadAfterWriteAndCanonical :
    Memory.wf [(0x200, 1), (0xFFE, 2)] = true ∧ Memory.wf (Memory.write [(0x200, 1)] 0xFFF 7) = true ∧
    Memory.write (Memory.write [] 0x300 5) 0x050 0x11 = Memory.write (Memory.write [] 0x050 0x11) 0x300 5 := by decide

/-- F155 at 0x200, with `I` at `a`: stores V0, V1 over the next word (0x202), its second byte only (0x203), its first byte
only (0x201), F155 itself (0x200). -/
theorem test_witness_StoredRegistersAreFetchedNext :
    ∀ a ∈ [0x200, 0x201, 0x202, 0x203], Fetches ((fetching 0x200 0xF155).setIndex a) 0xF155 ∧ decode 0xF155 = .ok (.ldMemVx 1) ∧
      ∃ t, step ((fetching 0x200 0xF155).setIndex a) = .next t ∧ t.faultCause = 0 ∧ t.pc.toNat ≤ 0xFFE := by
  simp only [List.forall_mem_cons, List.not_mem_nil, false_implies, implies_true, and_true]
  exact ⟨⟨⟨by decide, by decide⟩, by decide, _, rfl, by decide, by decide⟩,
    ⟨⟨by decide, by decide⟩, by decide, _, rfl, by decide, by decide⟩,
    ⟨⟨by decide, by decide⟩, by decide, _, rfl, by decide, by decide⟩,
    ⟨by decide, by decide⟩, by decide, _, rfl, by decide, by decide⟩

/-- F033 at 0xFFA stores its digits from 0xFFB, over its own second byte and the next word, the last but one of memory. -/
theorem test_witness_StoredRegistersAreFetchedNext_digits :
    Fetches ((fetching 0xFFA 0xF033).setIndex 0xFFB) 0xF033 ∧ decode 0xF033 = .ok (.ldB 0) ∧
      ∃ t, step ((fetching 0xFFA 0xF033).setIndex 0xFFB) = .next t ∧ t.faultCause = 0 ∧ t.pc.toNat ≤ 0xFFE :=
  ⟨⟨by decide, by decide⟩, by decide, _, rfl, by decide, by decide⟩

/-- 2300 at 0x200 with room for one more entry, 00EE at 0x300. -/
def callAndReturn : State :=
  { State.reset with sp := 15, mem := [(0x200, 0x23), (0x301, 0xEE)] }

theorem test_witness_ReturnComesBackAfterTheCall :
    Fetches callAndReturn 0x2300 ∧ decode 0x2300 = .ok (.call 0x300) ∧ callAndReturn.sp.val < 16 ∧
    ∃ t, step callAndReturn = .next t ∧ Fetches t 0x00EE ∧ decode 0x00EE = .ok .ret :=
  ⟨⟨by decide, by decide⟩, by decide, by decide, _, rfl, ⟨by decide, by decide⟩, by decide⟩

theorem test_witness_EndedRunStaysEnded : EndedAt 0xFFE (fetching 0xFFE 0x1FFE) ∧ EndedAt 0x200 (fetching 0x200 0x1200) :=
  ⟨⟨by decide, by decide, by decide, by decide⟩, by decide, by decide, by decide, by decide⟩

/-- The edges of the regions of memory: below the font, its ends, above it, the start of the program space. -/
theorem test_witness_StateAfterPowerOnAndReset :
    (0x04F < 0x050 ∧ 79 < 80 ∧ 0x0A0 ≤ 0x1FF ∧ 0x1FF < 0x200) ∧ State.reset.mem.read 0x04F = 0 ∧
    State.reset.mem.read 0x050 = 0xF0 ∧ State.reset.mem.read 0x09F = 0x80 ∧ State.reset.mem.read 0x0A0 = 0 ∧
    State.reset.mem.read 0x1FF = 0 ∧ State.reset.mem.read 0x200 = 0 := by decide

/-- The defaults, but for another start address, font, reserved byte and stack pointer width. -/
def otherParams : Config.Params :=
  { Config.defaults with
    resetPc := 0, fontRom := Vector.replicate 80 0xFF, memReservedInit := [7], spWidth := 8, spHolds := rfl }

theorem test_witness_ParametersAreFixed : ∃ t, applyOp (.step 0 0) State.reset = .next t := ⟨_, rfl⟩

theorem test_witness_StepReadsTwoParametersAlone :
    otherParams.spriteMsbFirst = State.reset.config.spriteMsbFirst ∧
    otherParams.faultCodes = State.reset.config.faultCodes ∧ otherParams ≠ State.reset.config ∧
    ∃ t, step State.reset = .next t := ⟨rfl, rfl, by decide, _, rfl⟩

theorem test_witness_LoadPlacesTheImageOrChangesNothing :
    (List.replicate 3584 (0x12 : Byte)).length ≤ 3584 ∧ (List.replicate 3585 (0x12 : Byte)).length > 3584 := by
  rw [List.length_replicate, List.length_replicate]; decide

theorem test_witness_ReturnPopsTheStack :
    ({ State.reset with sp := 16 } : State).sp.val ≠ 0 ∧ ({ State.reset with sp := 1 } : State).sp.val ≠ 0 ∧
    State.reset.sp.val = 0 := by decide

theorem test_witness_CallPushesAndJumps :
    ({ State.reset with sp := 15 } : State).sp.val ≠ 16 ∧ ({ State.reset with sp := 16 } : State).sp.val = 16 := by decide

theorem test_witness_FlagRegisterAsOperand : State.reset.reg VF = 0 ∧ (14 : Reg) ≠ VF := by decide

theorem test_witness_RandomIsAnyByteUnderTheMask : (State.reset.present 0 0xA7).rnd = some 0xA7 := by decide

theorem test_witness_DecimalDigitsAreStored :
    (State.reset.setIndex 0xFFD).i.toNat + 2 ≤ 0xFFF ∧ (State.reset.setIndex 0xFFE).i.toNat + 2 > 0xFFF := by decide

theorem test_witness_RegistersAreStoredAndLoaded :
    (State.reset.setIndex 0xFF0).i.toNat + (15 : Reg).val ≤ 0xFFF ∧ (State.reset.setIndex 0xFF1).i.toNat + (15 : Reg).val > 0xFFF ∧
    (State.reset.setIndex 0xFFF).i.toNat + (0 : Reg).val ≤ 0xFFF ∧ (State.reset.setIndex 0x1000).i.toNat + (0 : Reg).val > 0xFFF := by
  decide

theorem test_witness_DrawTogglesTheSpritePixels :
    ((0 : RowCount).val = 0 ∨ (State.reset.setIndex 0xFFFF).i.toNat + (0 : RowCount).val - 1 ≤ 0xFFF) ∧
    (State.reset.setIndex 0xFF1).i.toNat + (15 : RowCount).val - 1 ≤ 0xFFF ∧
    ((15 : RowCount).val ≠ 0 ∧ (State.reset.setIndex 0xFF2).i.toNat + (15 : RowCount).val - 1 > 0xFFF) := by decide

/-- The sprite C0 at the corner, over a set pixel and over a clear display. -/
theorem test_witness_DrawTogglesTheSpritePixels_collision :
    (∃ px py, pixel (togglePixel clearDisplay 1 0 true) px py = true ∧
      spritePixel ((data 0x300 [0xC0]).sprite 0 1 1) px py = true) ∧
    ¬ ∃ px py, pixel clearDisplay px py = true ∧ spritePixel ((data 0x300 [0xC0]).sprite 0 1 1) px py = true := by
  refine ⟨⟨1, 0, by decide, by decide⟩, ?_⟩
  rintro ⟨px, py, h, -⟩
  revert h; revert px py; decide

theorem test_witness_DrawingTwiceRestoresTheDisplay :
    ∃ t, exec (.drw 0 1 1) (data 0x300 [0xC0]) = .next t ∧ t.reg 0 = (data 0x300 [0xC0]).reg 0 ∧
      t.reg 1 = (data 0x300 [0xC0]).reg 1 := ⟨_, rfl, by decide, by decide⟩

theorem test_witness_SkipsOnAKey :
    ((State.reset.setReg 2 15).reg 2).toNat ≤ 15 ∧ ((State.reset.setReg 2 16).reg 2).toNat > 15 := by decide

theorem test_witness_KeyWaitTakesTheHighestKeyOrRepeats :
    (State.reset.present 0x8001 0).key.getLsbD (15 : Fin 16).val = true ∧
    (∀ j : Fin 16, 15 < j → (State.reset.present 0x8001 0).key.getLsbD j.val = false) ∧
    (State.reset.present 0x0001 0).key.getLsbD (0 : Fin 16).val = true ∧
    (∀ j : Fin 16, 0 < j → (State.reset.present 0x0001 0).key.getLsbD j.val = false) ∧ State.reset.key = 0 := by decide

theorem test_witness_KeyWaitTakesTheHighestKeyOrRepeats_step :
    Fetches (fetching 0x200 0xF20A) 0xF20A ∧ decode 0xF20A = .ok (.ldVxK 2) ∧ (fetching 0x200 0xF20A).key = 0 :=
  ⟨⟨by decide, by decide⟩, by decide, by decide⟩

theorem test_witness_TimersAreCopied :
    (Fetches (fetching 0x200 0xF107) 0xF107 ∧ decode 0xF107 = .ok (.ldVxDt 1)) ∧
    (Fetches (fetching 0x200 0xF015) 0xF015 ∧ decode 0xF015 = .ok (.ldDtVx 0)) ∧
    (Fetches (fetching 0x200 0xF418) 0xF418 ∧ decode 0xF418 = .ok (.ldStVx 4)) :=
  ⟨⟨⟨by decide, by decide⟩, by decide⟩, ⟨⟨by decide, by decide⟩, by decide⟩, ⟨by decide, by decide⟩, by decide⟩

end Sys2Proof.Tests
end

section
/-! Control transfer (40_control_flow.md): the jump and the skips on an immediate. -/

namespace Sys2Proof

/-! ### Decoding by the top nibble (30_encoding.md R94) -/

theorem decode_packNNN_jp (nnn : Nnn) : decode (packNNN 0x1 nnn) = .ok (.jp nnn) := by
  rw [decode, groupOf_packNNN, fieldNNN_packNNN]; rfl

theorem decode_packXKK_seImm (x : Reg) (kk : Byte) : decode (packXKK 0x3 x kk) = .ok (.seImm x kk) := by
  rw [decode, groupOf_packXKK, fieldX_packXKK, fieldKK_packXKK]; rfl

theorem decode_packXKK_sneImm (x : Reg) (kk : Byte) : decode (packXKK 0x4 x kk) = .ok (.sneImm x kk) := by
  rw [decode, groupOf_packXKK, fieldX_packXKK, fieldKK_packXKK]; rfl

end Sys2Proof

namespace Sys2Proof.Machine

/-! ### Execute stages that write `pc` alone -/

section
variable (s : State)

theorem exec_jp (nnn : Nnn) : exec (.jp nnn) s = .next (s.setPc (zextNnn nnn)) := rfl

theorem exec_seImm (x : Reg) (kk : Byte) : exec (.seImm x kk) s = .next (s.skipIf (s.reg x == kk)) := rfl

theorem exec_sneImm (x : Reg) (kk : Byte) : exec (.sneImm x kk) s = .next (s.skipIf (s.reg x != kk)) := rfl

theorem State.setPc_frame (a : Addr) : Frame { pc := true } s (s.setPc a) := by
  constructor <;> simp

theorem State.skipIf_frame (c : Bool) : Frame { pc := true } s (s.skipIf c) := by
  rw [State.skipIf_eq]
  exact s.setPc_frame _

theorem State.skipIf_pc (c : Bool) : (s.skipIf c).pc = if c then s.pc + 2 else s.pc := by
  rw [State.skipIf_eq, State.setPc_pc]

/-- A skip whose condition is the equality of two bytes (R124, R126). -/
theorem State.skipIf_beq_pc (a b : Byte) : (s.skipIf (a == b)).pc = if a = b then s.pc + 2 else s.pc := by
  simp only [State.skipIf_pc, beq_iff_eq]

/-- The inverted condition skips exactly where the equality does not (R125, R127). -/
theorem State.skipIf_bne_pc (a b : Byte) : (s.skipIf (a != b)).pc = if a = b then s.pc else s.pc + 2 := by
  simp only [State.skipIf_pc, bne_iff_ne, ite_not]

end

/-! ### The obligations -/

/-- Settles O33: the execute stage is one write of `pc`, whose value is NNN widened without loss. -/
theorem jumpLoadsTheAddress : Obligations.JumpLoadsTheAddress := by
  intro nnn s
  exact ⟨decode_packNNN_jp nnn, _, exec_jp s nnn, zextNnn_toNat nnn, s.setPc_frame _⟩

/-- Settles O35: both execute stages are one `skipIf`, on a condition and on its negation. -/
theorem skipsOnAnImmediate : Obligations.SkipsOnAnImmediate := by
  intro x kk s
  refine ⟨decode_packXKK_seImm x kk, decode_packXKK_sneImm x kk, ?seImm, ?sneImm⟩
  case seImm => exact ⟨_, exec_seImm s x kk, s.skipIf_beq_pc _ _, s.skipIf_frame _⟩
  case sneImm => exact ⟨_, exec_sneImm s x kk, s.skipIf_bne_pc _ _, s.skipIf_frame _⟩

end Sys2Proof.Machine
end

section
/-! Registers (41_register_alu.md): the load, the addition of an immediate, the copy and the logic operations, whose
execute stage is one write of `V[X]`. -/

namespace Sys2Proof

/-! ### Decoding by the top nibble, and in group 0x8 by the low one (30_encoding.md R94, R95) -/

section
variable (x y : Reg)

theorem decode_packXKK_ldImm (kk : Byte) : decode (packXKK 0x6 x kk) = .ok (.ldImm x kk) := by
  rw [decode, groupOf_packXKK, fieldX_packXKK, fieldKK_packXKK]; rfl

theorem decode_packXKK_addImm (kk : Byte) : decode (packXKK 0x7 x kk) = .ok (.addImm x kk) := by
  rw [decode, groupOf_packXKK, fieldX_packXKK, fieldKK_packXKK]; rfl

theorem decode_packXYN_group8 (n : BitVec 4) : decode (packXYN 0x8 x y n) = decodeGroup8 (packXYN 0x8 x y n) := by
  rw [decode, groupOf_packXYN]; rfl

theorem decode_packXYN_ldReg : decode (packXYN 0x8 x y 0x0) = .ok (.ldReg x y) := by
  rw [decode_packXYN_group8, decodeGroup8, lowNibble_packXYN, fieldX_packXYN, fieldY_packXYN]; rfl

theorem decode_packXYN_orReg : decode (packXYN 0x8 x y 0x1) = .ok (.orReg x y) := by
  rw [decode_packXYN_group8, decodeGroup8, lowNibble_packXYN, fieldX_packXYN, fieldY_packXYN]; rfl

theorem decode_packXYN_andReg : decode (packXYN 0x8 x y 0x2) = .ok (.andReg x y) := by
  rw [decode_packXYN_group8, decodeGroup8, lowNibble_packXYN, fieldX_packXYN, fieldY_packXYN]; rfl

theorem decode_packXYN_xorReg : decode (packXYN 0x8 x y 0x3) = .ok (.xorReg x y) := by
  rw [decode_packXYN_group8, decodeGroup8, lowNibble_packXYN, fieldX_packXYN, fieldY_packXYN]; rfl

end

end Sys2Proof

namespace Sys2Proof.Machine

/-! ### Execute stages that write one register alone -/

section
variable (s : State) (x y : Reg)

theorem exec_ldImm (kk : Byte) : exec (.ldImm x kk) s = .next (s.setReg x kk) := rfl

theorem exec_addImm (kk : Byte) : exec (.addImm x kk) s = .next (s.setReg x (s.reg x + kk)) := rfl

theorem exec_ldReg : exec (.ldReg x y) s = .next (s.setReg x (s.reg y)) := rfl

theorem exec_orReg : exec (.orReg x y) s = .next (s.setReg x (s.reg x ||| s.reg y)) := rfl

theorem exec_andReg : exec (.andReg x y) s = .next (s.setReg x (s.reg x &&& s.reg y)) := rfl

theorem exec_xorReg : exec (.xorReg x y) s = .next (s.setReg x (s.reg x ^^^ s.reg y)) := rfl

theorem State.setReg_frame (b : Byte) : Frame { regs := [x] } s (s.setReg x b) := by
  constructor
  case regs => exact fun _ hr => s.reg_setReg_ne b (List.ne_of_not_mem_cons hr)
  all_goals simp

/-- What an execute stage that is one write of a register leaves there and elsewhere. -/
theorem exec_setReg_effect {s : State} {x : Reg} {i : Instr} {b : Byte} (h : exec i s = .next (s.setReg x b)) :
    ∃ t, exec i s = .next t ∧ t.reg x = b ∧ Frame { regs := [x] } s t :=
  ⟨_, h, s.reg_setReg_self x b, s.setReg_frame x b⟩

end

/-! ### The obligations -/

/-- Settles O38: the execute stage is one write of `V[X]`, and X = F is no special case of it. -/
theorem loadImmediateSetsTheRegister : Obligations.LoadImmediateSetsTheRegister := by
  intro x kk s
  exact ⟨decode_packXKK_ldImm x kk, exec_setReg_effect (exec_ldImm s x kk)⟩

/-- Settles O39: the byte written is the sum of bytes, whose value is the sum of the numbers modulo 256. -/
theorem addImmediateWrapsWithoutFlag : Obligations.AddImmediateWrapsWithoutFlag := by
  intro x kk s
  obtain ⟨t, hexec, hx, hframe⟩ := exec_setReg_effect (exec_addImm s x kk)
  have hsum : (t.reg x).toNat = ((s.reg x).toNat + kk.toNat) % 256 := by rw [hx, BitVec.toNat_add]
  exact ⟨decode_packXKK_addImm x kk, t, hexec, hsum, hframe⟩

/-- Settles O40: each of the four execute stages is one write of `V[X]`, with a byte made of the old registers. -/
theorem copyAndLogicWriteOnlyTheDestination : Obligations.CopyAndLogicWriteOnlyTheDestination := by
  intro x y s
  refine ⟨decode_packXYN_ldReg x y, decode_packXYN_orReg x y, decode_packXYN_andReg x y, decode_packXYN_xorReg x y,
    ?ldReg, ?orReg, ?andReg, ?xorReg⟩
  case ldReg => exact exec_setReg_effect (exec_ldReg s x y)
  case orReg => exact exec_setReg_effect (exec_orReg s x y)
  case andReg => exact exec_setReg_effect (exec_andReg s x y)
  case xorReg => exact exec_setReg_effect (exec_xorReg s x y)

end Sys2Proof.Machine
end

section
/-! The index register (42_index_memory.md): the load of `I` and the addition to it, whose execute stage is one write of
`I`. -/

namespace Sys2Proof

/-! ### Decoding by the top nibble, and in group 0xF by the low byte (30_encoding.md R94, R95) -/

theorem decode_packNNN_ldI (nnn : Nnn) : decode (packNNN 0xA nnn) = .ok (.ldI nnn) := by
  rw [decode, groupOf_packNNN, fieldNNN_packNNN]; rfl

theorem decode_packXKK_groupF (x : Reg) (kk : Byte) : decode (packXKK 0xF x kk) = decodeGroupF (packXKK 0xF x kk) := by
  rw [decode, groupOf_packXKK]; rfl

theorem decode_packXKK_addI (x : Reg) : decode (packXKK 0xF x 0x1E) = .ok (.addI x) := by
  rw [decode_packXKK_groupF, decodeGroupF, fieldKK_packXKK, fieldX_packXKK]; rfl

end Sys2Proof

namespace Sys2Proof.Machine

/-! ### Execute stages that write `I` alone -/

section
variable (s : State)

theorem exec_ldI (nnn : Nnn) : exec (.ldI nnn) s = .next (s.setIndex (zextNnn nnn)) := rfl

theorem exec_addI (x : Reg) : exec (.addI x) s = .next (s.setIndex (s.i + zextByte (s.reg x))) := rfl

theorem State.setIndex_frame (a : Addr) : Frame { index := true } s (s.setIndex a) := by
  constructor <;> simp

variable {s} in
/-- What an execute stage that is one write of `I` leaves there and elsewhere. -/
theorem exec_setIndex_effect {i : Instr} {a : Addr} (h : exec i s = .next (s.setIndex a)) :
    ∃ t, exec i s = .next t ∧ t.i = a ∧ Frame { index := true } s t :=
  ⟨_, h, s.setIndex_i a, s.setIndex_frame a⟩

end

/-! ### The obligations -/

/-- Settles O48: the execute stage is one write of `I`, whose value is NNN widened without loss. -/
theorem loadIndexSetsTheAddress : Obligations.LoadIndexSetsTheAddress := by
  intro nnn s
  obtain ⟨t, hexec, hi, hframe⟩ := exec_setIndex_effect (exec_ldI s nnn)
  have haddr : t.i.toNat = nnn.toNat := by rw [hi, zextNnn_toNat]
  exact ⟨decode_packNNN_ldI nnn, t, hexec, haddr, hframe⟩

/-- Settles O49: the address written is a sum of 16-bit words, whose value is the sum of the numbers modulo 65536. -/
theorem addToIndexWrapsWithoutFlag : Obligations.AddToIndexWrapsWithoutFlag := by
  intro x s
  obtain ⟨t, hexec, hi, hframe⟩ := exec_setIndex_effect (exec_addI s x)
  have hsum : t.i.toNat = (s.i.toNat + (s.reg x).toNat) % 65536 := by rw [hi, BitVec.toNat_add, zextByte_toNat]
  exact ⟨decode_packXKK_addI x, t, hexec, hsum, hframe⟩

end Sys2Proof.Machine
end

section
/-! The keypad and the timers (44_keypad_timers.md): the key wait, and the copies between the timers and a register
with the tick of the same Step. -/

namespace Sys2Proof

/-! ### Decoding in group 0xF by the low byte (30_encoding.md R95) -/

section
variable (x : Reg)

theorem decode_packXKK_ldVxK : decode (packXKK 0xF x 0x0A) = .ok (.ldVxK x) := by
  rw [decode_packXKK_groupF, decodeGroupF, fieldKK_packXKK, fieldX_packXKK]; rfl

theorem decode_packXKK_ldVxDt : decode (packXKK 0xF x 0x07) = .ok (.ldVxDt x) := by
  rw [decode_packXKK_groupF, decodeGroupF, fieldKK_packXKK, fieldX_packXKK]; rfl

theorem decode_packXKK_ldDtVx : decode (packXKK 0xF x 0x15) = .ok (.ldDtVx x) := by
  rw [decode_packXKK_groupF, decodeGroupF, fieldKK_packXKK, fieldX_packXKK]; rfl

theorem decode_packXKK_ldStVx : decode (packXKK 0xF x 0x18) = .ok (.ldStVx x) := by
  rw [decode_packXKK_groupF, decodeGroupF, fieldKK_packXKK, fieldX_packXKK]; rfl

end

end Sys2Proof

namespace Sys2Proof.Machine

/-! ### The execute stages -/

section
variable (s : State) (x : Reg)

theorem exec_ldVxDt : exec (.ldVxDt x) s = .next (s.setReg x s.dt) := rfl

theorem exec_ldDtVx : exec (.ldDtVx x) s = .next (s.setDelay (s.reg x)) := rfl

theorem exec_ldStVx : exec (.ldStVx x) s = .next (s.setSound (s.reg x)) := rfl

theorem State.setDelay_frame (b : Byte) : Frame { delay := true } s (s.setDelay b) := by
  constructor <;> simp

theorem State.setSound_frame (b : Byte) : Frame { sound := true } s (s.setSound b) := by
  constructor <;> simp

variable {s}

theorem exec_ldVxK_of_some {k : Nat} (h : s.lastKeyDown 16 = some k) :
    exec (.ldVxK x) s = .next (s.setReg x (BitVec.ofNat 8 k)) := by
  simp only [exec, execLdVxK, h]

theorem exec_ldVxK_of_none (h : s.lastKeyDown 16 = none) : exec (.ldVxK x) s = .next (s.setPc (s.pc - 2)) := by
  simp only [exec, execLdVxK, h]

/-- With an empty keypad the scan finds nothing, however many keys it looks at. -/
theorem State.lastKeyDown_of_key_eq_zero (h : s.key = 0) (n : Nat) : s.lastKeyDown n = none := by
  apply State.lastKeyDown_none
  intro j _
  rw [State.keyDown, h, BitVec.ofNat_eq_ofNat, BitVec.getLsbD_zero]

/-- The scan of all sixteen keys answers the highest one that is down (R213). -/
theorem State.lastKeyDown_of_highest {k : Fin 16} (hdown : s.key.getLsbD k.val = true)
    (hup : ∀ j : Fin 16, k < j → s.key.getLsbD j.val = false) : s.lastKeyDown 16 = some k.val :=
  s.lastKeyDown_some k.isLt hdown fun j hkj hj => hup ⟨j, hj⟩ hkj

end

/-! ### A Step that ends normally -/

section
variable {s u : State} {w : Opcode} {i : Instr}

/-- A Step whose execute stage sets no fault ends with the fetched word in `opreg` and one tick of what that stage left
in the timers (30_encoding.md R90, 10_state.md R32). -/
theorem step_without_fault (hw : Fetches s w) (hd : decode w = .ok i) (he : exec i s.advance = .next u)
    (hu : u.faultCause = s.faultCause) :
    step s = .next { u with opreg := w, dt := oneLess u.dt, st := oneLess u.st } := by
  obtain ⟨hrun, hfetch⟩ := hw
  have hurun : u.halted = false := by rw [State.halted_eq_false, hu, ← State.halted_eq_false, hrun]
  rw [step_instr hrun hfetch hd he, State.retire_running hurun, oneLess_eq, oneLess_eq, State.tick]

/-- Going back by 2 undoes the advance: the instruction repeats (R213). -/
theorem State.advance_setPc_back (s : State) : s.advance.setPc (s.advance.pc - 2) = s := by
  rw [State.advance_pc, BitVec.add_sub_cancel]
  rfl

end

/-! ### The obligations -/

/-- Settles O58: by the scan, which answers the highest key down or none; with none, the write of `pc` undoes the
advance and only the end of the Step is left. -/
theorem keyWaitTakesTheHighestKeyOrRepeats : Obligations.KeyWaitTakesTheHighestKeyOrRepeats := by
  intro x s
  refine ⟨decode_packXKK_ldVxK x, ?down, ?none, ?repeats⟩
  case down =>
    intro k hdown hup
    have hscan : s.lastKeyDown 16 = some k.val := State.lastKeyDown_of_highest hdown hup
    obtain ⟨t, hexec, hx, hframe⟩ := exec_setReg_effect (exec_ldVxK_of_some x hscan)
    have hk : (t.reg x).toNat = k.val := by rw [hx, BitVec.toNat_ofNat]; omega
    exact ⟨t, hexec, hk, hframe⟩
  case none =>
    intro hkey
    exact ⟨_, exec_ldVxK_of_none x (State.lastKeyDown_of_key_eq_zero hkey 16), s.setPc_pc _, s.setPc_frame _⟩
  case repeats =>
    intro w hw hd hkey
    have hscan : s.advance.lastKeyDown 16 = none := State.lastKeyDown_of_key_eq_zero hkey 16
    have hexec : exec (.ldVxK x) s.advance = .next s := by
      rw [exec_ldVxK_of_none x hscan, State.advance_setPc_back]
    exact step_without_fault hw hd hexec rfl

/-- Settles O59: each execute stage is one write, and the tick of the same Step acts on the timers it left. -/
theorem timersAreCopied : Obligations.TimersAreCopied := by
  intro x s
  refine ⟨decode_packXKK_ldVxDt x, decode_packXKK_ldDtVx x, decode_packXKK_ldStVx x,
    exec_setReg_effect (exec_ldVxDt s x), ?delay, ?sound, fun w hw => ⟨?readStep, ?delayStep, ?soundStep⟩⟩
  case delay => exact ⟨_, exec_ldDtVx s x, s.setDelay_dt _, s.setDelay_frame _⟩
  case sound => exact ⟨_, exec_ldStVx s x, s.setSound_st _, s.setSound_frame _⟩
  case readStep =>
    intro hd
    exact ⟨_, step_without_fault hw hd (exec_ldVxDt s.advance x) rfl, s.advance.reg_setReg_self x s.dt, rfl⟩
  case delayStep =>
    intro hd
    exact ⟨_, step_without_fault hw hd (exec_ldDtVx s.advance x) rfl, rfl, rfl⟩
  case soundStep =>
    intro hd
    exact ⟨_, step_without_fault hw hd (exec_ldStVx s.advance x) rfl, rfl, rfl⟩

end Sys2Proof.Machine
end

section
/-! The decoder (30_encoding.md R94 to R98): one equation per row of the table, from the keys that select the row; the
masks and matches as conditions on the same keys; and the words that no row selects. -/

namespace Sys2Proof

/-! ### The equation of each row, from its group and its secondary key -/

section
variable {w : Opcode}

theorem decode_group0 (h : groupOf w = 0x0) : decode w = decodeGroup0 w := by rw [decode, h]; rfl
theorem decode_group8 (h : groupOf w = 0x8) : decode w = decodeGroup8 w := by rw [decode, h]; rfl
theorem decode_groupE (h : groupOf w = 0xE) : decode w = decodeGroupE w := by rw [decode, h]; rfl
theorem decode_groupF (h : groupOf w = 0xF) : decode w = decodeGroupF w := by rw [decode, h]; rfl

theorem decode_cls (h : groupOf w = 0x0) (hn : lowNibble w = 0x0) : decode w = .ok .cls := by
  rw [decode_group0 h, decodeGroup0, hn]; rfl
theorem decode_ret (h : groupOf w = 0x0) (hn : lowNibble w = 0xE) : decode w = .ok .ret := by
  rw [decode_group0 h, decodeGroup0, hn]; rfl

theorem decode_jp (h : groupOf w = 0x1) : decode w = .ok (.jp (fieldNNN w)) := by rw [decode, h]; rfl
theorem decode_call (h : groupOf w = 0x2) : decode w = .ok (.call (fieldNNN w)) := by rw [decode, h]; rfl
theorem decode_seImm (h : groupOf w = 0x3) : decode w = .ok (.seImm (fieldX w) (fieldKK w)) := by rw [decode, h]; rfl
theorem decode_sneImm (h : groupOf w = 0x4) : decode w = .ok (.sneImm (fieldX w) (fieldKK w)) := by rw [decode, h]; rfl
theorem decode_seReg (h : groupOf w = 0x5) : decode w = .ok (.seReg (fieldX w) (fieldY w)) := by rw [decode, h]; rfl
theorem decode_ldImm (h : groupOf w = 0x6) : decode w = .ok (.ldImm (fieldX w) (fieldKK w)) := by rw [decode, h]; rfl
theorem decode_addImm (h : groupOf w = 0x7) : decode w = .ok (.addImm (fieldX w) (fieldKK w)) := by rw [decode, h]; rfl
theorem decode_sneReg (h : groupOf w = 0x9) : decode w = .ok (.sneReg (fieldX w) (fieldY w)) := by rw [decode, h]; rfl
theorem decode_ldI (h : groupOf w = 0xA) : decode w = .ok (.ldI (fieldNNN w)) := by rw [decode, h]; rfl
theorem decode_jpV0 (h : groupOf w = 0xB) : decode w = .ok (.jpV0 (fieldNNN w)) := by rw [decode, h]; rfl
theorem decode_rnd (h : groupOf w = 0xC) : decode w = .ok (.rnd (fieldX w) (fieldKK w)) := by rw [decode, h]; rfl
theorem decode_drw (h : groupOf w = 0xD) : decode w = .ok (.drw (fieldX w) (fieldY w) (fieldN w)) := by
  rw [decode, h]; rfl

theorem decode_ldReg (h : groupOf w = 0x8) (hn : lowNibble w = 0x0) :
    decode w = .ok (.ldReg (fieldX w) (fieldY w)) := by rw [decode_group8 h, decodeGroup8, hn]; rfl
theorem decode_orReg (h : groupOf w = 0x8) (hn : lowNibble w = 0x1) :
    decode w = .ok (.orReg (fieldX w) (fieldY w)) := by rw [decode_group8 h, decodeGroup8, hn]; rfl
theorem decode_andReg (h : groupOf w = 0x8) (hn : lowNibble w = 0x2) :
    decode w = .ok (.andReg (fieldX w) (fieldY w)) := by rw [decode_group8 h, decodeGroup8, hn]; rfl
theorem decode_xorReg (h : groupOf w = 0x8) (hn : lowNibble w = 0x3) :
    decode w = .ok (.xorReg (fieldX w) (fieldY w)) := by rw [decode_group8 h, decodeGroup8, hn]; rfl
theorem decode_addReg (h : groupOf w = 0x8) (hn : lowNibble w = 0x4) :
    decode w = .ok (.addReg (fieldX w) (fieldY w)) := by rw [decode_group8 h, decodeGroup8, hn]; rfl
theorem decode_subReg (h : groupOf w = 0x8) (hn : lowNibble w = 0x5) :
    decode w = .ok (.subReg (fieldX w) (fieldY w)) := by rw [decode_group8 h, decodeGroup8, hn]; rfl
theorem decode_shr (h : groupOf w = 0x8) (hn : lowNibble w = 0x6) :
    decode w = .ok (.shr (fieldX w) (fieldY w)) := by rw [decode_group8 h, decodeGroup8, hn]; rfl
theorem decode_subnReg (h : groupOf w = 0x8) (hn : lowNibble w = 0x7) :
    decode w = .ok (.subnReg (fieldX w) (fieldY w)) := by rw [decode_group8 h, decodeGroup8, hn]; rfl
theorem decode_shl (h : groupOf w = 0x8) (hn : lowNibble w = 0xE) :
    decode w = .ok (.shl (fieldX w) (fieldY w)) := by rw [decode_group8 h, decodeGroup8, hn]; rfl

theorem decode_sknp (h : groupOf w = 0xE) (hn : lowNibble w = 0x1) : decode w = .ok (.sknp (fieldX w)) := by
  rw [decode_groupE h, decodeGroupE, hn]; rfl
theorem decode_skp (h : groupOf w = 0xE) (hn : lowNibble w = 0xE) : decode w = .ok (.skp (fieldX w)) := by
  rw [decode_groupE h, decodeGroupE, hn]; rfl

theorem decode_ldVxDt (h : groupOf w = 0xF) (hk : fieldKK w = 0x07) : decode w = .ok (.ldVxDt (fieldX w)) := by
  rw [decode_groupF h, decodeGroupF, hk]; rfl
theorem decode_ldVxK (h : groupOf w = 0xF) (hk : fieldKK w = 0x0A) : decode w = .ok (.ldVxK (fieldX w)) := by
  rw [decode_groupF h, decodeGroupF, hk]; rfl
theorem decode_ldDtVx (h : groupOf w = 0xF) (hk : fieldKK w = 0x15) : decode w = .ok (.ldDtVx (fieldX w)) := by
  rw [decode_groupF h, decodeGroupF, hk]; rfl
theorem decode_ldStVx (h : groupOf w = 0xF) (hk : fieldKK w = 0x18) : decode w = .ok (.ldStVx (fieldX w)) := by
  rw [decode_groupF h, decodeGroupF, hk]; rfl
theorem decode_addI (h : groupOf w = 0xF) (hk : fieldKK w = 0x1E) : decode w = .ok (.addI (fieldX w)) := by
  rw [decode_groupF h, decodeGroupF, hk]; rfl
theorem decode_ldF (h : groupOf w = 0xF) (hk : fieldKK w = 0x29) : decode w = .ok (.ldF (fieldX w)) := by
  rw [decode_groupF h, decodeGroupF, hk]; rfl
theorem decode_ldB (h : groupOf w = 0xF) (hk : fieldKK w = 0x33) : decode w = .ok (.ldB (fieldX w)) := by
  rw [decode_groupF h, decodeGroupF, hk]; rfl
theorem decode_ldMemVx (h : groupOf w = 0xF) (hk : fieldKK w = 0x55) : decode w = .ok (.ldMemVx (fieldX w)) := by
  rw [decode_groupF h, decodeGroupF, hk]; rfl
theorem decode_ldVxMem (h : groupOf w = 0xF) (hk : fieldKK w = 0x65) : decode w = .ok (.ldVxMem (fieldX w)) := by
  rw [decode_groupF h, decodeGroupF, hk]; rfl

end

/-! ### Words packed with ignored bits (R97) -/

section
variable (x y : Reg) (a b n : BitVec 4)

theorem decode_packNibbles_cls : decode (packNibbles 0x0 a b 0x0) = .ok .cls := decode_cls (by simp) (by simp)

theorem decode_packNibbles_ret : decode (packNibbles 0x0 a b 0xE) = .ok .ret := decode_ret (by simp) (by simp)

theorem decode_packXYN_seReg : decode (packXYN 0x5 x y n) = .ok (.seReg x y) := by
  rw [decode_seReg (groupOf_packXYN ..), fieldX_packXYN, fieldY_packXYN]

theorem decode_packXYN_sneReg : decode (packXYN 0x9 x y n) = .ok (.sneReg x y) := by
  rw [decode_sneReg (groupOf_packXYN ..), fieldX_packXYN, fieldY_packXYN]

theorem decode_packNibbles_skp : decode (packNibbles 0xE (regBits x) a 0xE) = .ok (.skp x) := by
  rw [decode_skp (groupOf_packNibbles ..) (lowNibble_packNibbles ..), fieldX_packNibbles, regBits_toFin]

theorem decode_packNibbles_sknp : decode (packNibbles 0xE (regBits x) a 0x1) = .ok (.sknp x) := by
  rw [decode_sknp (groupOf_packNibbles ..) (lowNibble_packNibbles ..), fieldX_packNibbles, regBits_toFin]

end

/-! ### The canonical word of each instruction -/

theorem fieldN_packXYN_regBits (g : BitVec 4) (x y : Reg) (n : RowCount) : fieldN (packXYN g x y (regBits n)) = n := by
  rw [fieldN_packXYN, regBits_toFin]

/-- The canonical word of an instruction selects the instruction's row, and its fields hold the operands. -/
theorem decode_encode (i : Instr) : decode (encode i) = .ok i := by
  cases i with
  | cls => exact decode_packNibbles_cls 0x0 0xE
  | ret => exact decode_packNibbles_ret 0x0 0xE
  | jp nnn => exact decode_packNNN_jp nnn
  | call nnn => rw [encode, decode_call (groupOf_packNNN ..), fieldNNN_packNNN]
  | seImm x kk => exact decode_packXKK_seImm x kk
  | sneImm x kk => exact decode_packXKK_sneImm x kk
  | seReg x y => exact decode_packXYN_seReg x y 0x0
  | sneReg x y => exact decode_packXYN_sneReg x y 0x0
  | ldImm x kk => exact decode_packXKK_ldImm x kk
  | addImm x kk => exact decode_packXKK_addImm x kk
  | ldReg x y => exact decode_packXYN_ldReg x y
  | orReg x y => exact decode_packXYN_orReg x y
  | andReg x y => exact decode_packXYN_andReg x y
  | xorReg x y => exact decode_packXYN_xorReg x y
  | addReg x y =>
    rw [encode, decode_addReg (groupOf_packXYN ..) (lowNibble_packXYN ..), fieldX_packXYN, fieldY_packXYN]
  | subReg x y =>
    rw [encode, decode_subReg (groupOf_packXYN ..) (lowNibble_packXYN ..), fieldX_packXYN, fieldY_packXYN]
  | shr x y => rw [encode, decode_shr (groupOf_packXYN ..) (lowNibble_packXYN ..), fieldX_packXYN, fieldY_packXYN]
  | subnReg x y =>
    rw [encode, decode_subnReg (groupOf_packXYN ..) (lowNibble_packXYN ..), fieldX_packXYN, fieldY_packXYN]
  | shl x y => rw [encode, decode_shl (groupOf_packXYN ..) (lowNibble_packXYN ..), fieldX_packXYN, fieldY_packXYN]
  | ldI nnn => exact decode_packNNN_ldI nnn
  | jpV0 nnn => rw [encode, decode_jpV0 (groupOf_packNNN ..), fieldNNN_packNNN]
  | rnd x kk => rw [encode, decode_rnd (groupOf_packXKK ..), fieldX_packXKK, fieldKK_packXKK]
  | drw x y n => rw [encode, decode_drw (groupOf_packXYN ..), fieldX_packXYN, fieldY_packXYN, fieldN_packXYN_regBits]
  | skp x => exact decode_packNibbles_skp x 0x9
  | sknp x => exact decode_packNibbles_sknp x 0xA
  | ldVxDt x => exact decode_packXKK_ldVxDt x
  | ldDtVx x => exact decode_packXKK_ldDtVx x
  | ldStVx x => exact decode_packXKK_ldStVx x
  | ldVxK x => exact decode_packXKK_ldVxK x
  | addI x => exact decode_packXKK_addI x
  | ldF x => rw [encode, decode_ldF (groupOf_packXKK ..) (fieldKK_packXKK ..), fieldX_packXKK]
  | ldB x => rw [encode, decode_ldB (groupOf_packXKK ..) (fieldKK_packXKK ..), fieldX_packXKK]
  | ldMemVx x => rw [encode, decode_ldMemVx (groupOf_packXKK ..) (fieldKK_packXKK ..), fieldX_packXKK]
  | ldVxMem x => rw [encode, decode_ldVxMem (groupOf_packXKK ..) (fieldKK_packXKK ..), fieldX_packXKK]

/-- Every operand type holds its own range (30_encoding.md R93). -/
theorem wellFormed_eq_true (i : Instr) : i.wellFormed = true := by
  cases i <;> simp [Instr.wellFormed]

/-- The byte decoder reads a word's two bytes as the word and leaves what follows. -/
theorem decodeBytes_split {w : Opcode} {i : Instr} (h : decode w = .ok i) (rest : List Byte) :
    decodeBytes (highByte w :: lowByte w :: rest) = .ok (i, rest) := by
  rw [decodeBytes, wordOfBytes_split, h]

theorem decodeBytes_encodeBytes (i : Instr) (rest : List Byte) :
    decodeBytes (encodeBytes i ++ rest) = .ok (i, rest) := by
  rw [encodeBytes, List.cons_append, List.cons_append, List.nil_append, decodeBytes_split (decode_encode i)]

/-! ### Masks as conditions on the keys (R96) -/

section
variable {w : Opcode}

theorem and_groupMask_iff (g : BitVec 4) : w &&& 0xF000 = packNibbles g 0 0 0 ↔ groupOf w = g := by
  rw [and_groupMask, packNibbles_inj]; simp

theorem and_lowMask_iff (g n : BitVec 4) :
    w &&& 0xF00F = packNibbles g 0 0 n ↔ groupOf w = g ∧ lowNibble w = n := by
  rw [and_lowMask, packNibbles_inj]; simp

theorem and_keyMask_iff (g : BitVec 4) (kk : Byte) :
    w &&& 0xF0FF = packXKK g 0 kk ↔ groupOf w = g ∧ fieldKK w = kk := by
  rw [and_keyMask]
  constructor
  · intro h
    exact ⟨by simpa using congrArg groupOf h, by simpa using congrArg fieldKK h⟩
  · rintro ⟨rfl, rfl⟩; rfl

/-- A word in the row of `i` under the row's mask decodes to an instruction of that row. -/
theorem decode_of_row {i : Instr} (h : w &&& i.mask = i.matchBits) :
    ∃ j, decode w = .ok j ∧ j.mask = i.mask ∧ j.matchBits = i.matchBits := by
  cases i with
  | cls => obtain ⟨hg, hn⟩ := (and_lowMask_iff 0x0 0x0).1 h; exact ⟨_, decode_cls hg hn, rfl, rfl⟩
  | ret => obtain ⟨hg, hn⟩ := (and_lowMask_iff 0x0 0xE).1 h; exact ⟨_, decode_ret hg hn, rfl, rfl⟩
  | jp => exact ⟨_, decode_jp ((and_groupMask_iff 0x1).1 h), rfl, rfl⟩
  | call => exact ⟨_, decode_call ((and_groupMask_iff 0x2).1 h), rfl, rfl⟩
  | seImm => exact ⟨_, decode_seImm ((and_groupMask_iff 0x3).1 h), rfl, rfl⟩
  | sneImm => exact ⟨_, decode_sneImm ((and_groupMask_iff 0x4).1 h), rfl, rfl⟩
  | seReg => exact ⟨_, decode_seReg ((and_groupMask_iff 0x5).1 h), rfl, rfl⟩
  | sneReg => exact ⟨_, decode_sneReg ((and_groupMask_iff 0x9).1 h), rfl, rfl⟩
  | ldImm => exact ⟨_, decode_ldImm ((and_groupMask_iff 0x6).1 h), rfl, rfl⟩
  | addImm => exact ⟨_, decode_addImm ((and_groupMask_iff 0x7).1 h), rfl, rfl⟩
  | ldReg => obtain ⟨hg, hn⟩ := (and_lowMask_iff 0x8 0x0).1 h; exact ⟨_, decode_ldReg hg hn, rfl, rfl⟩
  | orReg => obtain ⟨hg, hn⟩ := (and_lowMask_iff 0x8 0x1).1 h; exact ⟨_, decode_orReg hg hn, rfl, rfl⟩
  | andReg => obtain ⟨hg, hn⟩ := (and_lowMask_iff 0x8 0x2).1 h; exact ⟨_, decode_andReg hg hn, rfl, rfl⟩
  | xorReg => obtain ⟨hg, hn⟩ := (and_lowMask_iff 0x8 0x3).1 h; exact ⟨_, decode_xorReg hg hn, rfl, rfl⟩
  | addReg => obtain ⟨hg, hn⟩ := (and_lowMask_iff 0x8 0x4).1 h; exact ⟨_, decode_addReg hg hn, rfl, rfl⟩
  | subReg => obtain ⟨hg, hn⟩ := (and_lowMask_iff 0x8 0x5).1 h; exact ⟨_, decode_subReg hg hn, rfl, rfl⟩
  | shr => obtain ⟨hg, hn⟩ := (and_lowMask_iff 0x8 0x6).1 h; exact ⟨_, decode_shr hg hn, rfl, rfl⟩
  | subnReg => obtain ⟨hg, hn⟩ := (and_lowMask_iff 0x8 0x7).1 h; exact ⟨_, decode_subnReg hg hn, rfl, rfl⟩
  | shl => obtain ⟨hg, hn⟩ := (and_lowMask_iff 0x8 0xE).1 h; exact ⟨_, decode_shl hg hn, rfl, rfl⟩
  | ldI => exact ⟨_, decode_ldI ((and_groupMask_iff 0xA).1 h), rfl, rfl⟩
  | jpV0 => exact ⟨_, decode_jpV0 ((and_groupMask_iff 0xB).1 h), rfl, rfl⟩
  | rnd => exact ⟨_, decode_rnd ((and_groupMask_iff 0xC).1 h), rfl, rfl⟩
  | drw => exact ⟨_, decode_drw ((and_groupMask_iff 0xD).1 h), rfl, rfl⟩
  | skp => obtain ⟨hg, hn⟩ := (and_lowMask_iff 0xE 0xE).1 h; exact ⟨_, decode_skp hg hn, rfl, rfl⟩
  | sknp => obtain ⟨hg, hn⟩ := (and_lowMask_iff 0xE 0x1).1 h; exact ⟨_, decode_sknp hg hn, rfl, rfl⟩
  | ldVxDt => obtain ⟨hg, hk⟩ := (and_keyMask_iff 0xF 0x07).1 h; exact ⟨_, decode_ldVxDt hg hk, rfl, rfl⟩
  | ldDtVx => obtain ⟨hg, hk⟩ := (and_keyMask_iff 0xF 0x15).1 h; exact ⟨_, decode_ldDtVx hg hk, rfl, rfl⟩
  | ldStVx => obtain ⟨hg, hk⟩ := (and_keyMask_iff 0xF 0x18).1 h; exact ⟨_, decode_ldStVx hg hk, rfl, rfl⟩
  | ldVxK => obtain ⟨hg, hk⟩ := (and_keyMask_iff 0xF 0x0A).1 h; exact ⟨_, decode_ldVxK hg hk, rfl, rfl⟩
  | addI => obtain ⟨hg, hk⟩ := (and_keyMask_iff 0xF 0x1E).1 h; exact ⟨_, decode_addI hg hk, rfl, rfl⟩
  | ldF => obtain ⟨hg, hk⟩ := (and_keyMask_iff 0xF 0x29).1 h; exact ⟨_, decode_ldF hg hk, rfl, rfl⟩
  | ldB => obtain ⟨hg, hk⟩ := (and_keyMask_iff 0xF 0x33).1 h; exact ⟨_, decode_ldB hg hk, rfl, rfl⟩
  | ldMemVx => obtain ⟨hg, hk⟩ := (and_keyMask_iff 0xF 0x55).1 h; exact ⟨_, decode_ldMemVx hg hk, rfl, rfl⟩
  | ldVxMem => obtain ⟨hg, hk⟩ := (and_keyMask_iff 0xF 0x65).1 h; exact ⟨_, decode_ldVxMem hg hk, rfl, rfl⟩

/-! ### What each group decodes to, back to the row -/

section
variable {i : Instr}

theorem row_of_decodeGroup0 (hg : groupOf w = 0x0) (h : decodeGroup0 w = .ok i) : w &&& i.mask = i.matchBits := by
  unfold decodeGroup0 at h
  split at h <;> cases h
  next hn => exact (and_lowMask_iff 0x0 0x0).2 ⟨hg, hn⟩
  next hn => exact (and_lowMask_iff 0x0 0xE).2 ⟨hg, hn⟩

theorem row_of_decodeGroup8 (hg : groupOf w = 0x8) (h : decodeGroup8 w = .ok i) : w &&& i.mask = i.matchBits := by
  unfold decodeGroup8 at h
  split at h <;> cases h
  next hn => exact (and_lowMask_iff 0x8 0x0).2 ⟨hg, hn⟩
  next hn => exact (and_lowMask_iff 0x8 0x1).2 ⟨hg, hn⟩
  next hn => exact (and_lowMask_iff 0x8 0x2).2 ⟨hg, hn⟩
  next hn => exact (and_lowMask_iff 0x8 0x3).2 ⟨hg, hn⟩
  next hn => exact (and_lowMask_iff 0x8 0x4).2 ⟨hg, hn⟩
  next hn => exact (and_lowMask_iff 0x8 0x5).2 ⟨hg, hn⟩
  next hn => exact (and_lowMask_iff 0x8 0x6).2 ⟨hg, hn⟩
  next hn => exact (and_lowMask_iff 0x8 0x7).2 ⟨hg, hn⟩
  next hn => exact (and_lowMask_iff 0x8 0xE).2 ⟨hg, hn⟩

theorem row_of_decodeGroupE (hg : groupOf w = 0xE) (h : decodeGroupE w = .ok i) : w &&& i.mask = i.matchBits := by
  unfold decodeGroupE at h
  split at h <;> cases h
  next hn => exact (and_lowMask_iff 0xE 0x1).2 ⟨hg, hn⟩
  next hn => exact (and_lowMask_iff 0xE 0xE).2 ⟨hg, hn⟩

theorem row_of_decodeGroupF (hg : groupOf w = 0xF) (h : decodeGroupF w = .ok i) : w &&& i.mask = i.matchBits := by
  unfold decodeGroupF at h
  split at h <;> cases h
  next hk => exact (and_keyMask_iff 0xF 0x07).2 ⟨hg, hk⟩
  next hk => exact (and_keyMask_iff 0xF 0x0A).2 ⟨hg, hk⟩
  next hk => exact (and_keyMask_iff 0xF 0x15).2 ⟨hg, hk⟩
  next hk => exact (and_keyMask_iff 0xF 0x18).2 ⟨hg, hk⟩
  next hk => exact (and_keyMask_iff 0xF 0x1E).2 ⟨hg, hk⟩
  next hk => exact (and_keyMask_iff 0xF 0x29).2 ⟨hg, hk⟩
  next hk => exact (and_keyMask_iff 0xF 0x33).2 ⟨hg, hk⟩
  next hk => exact (and_keyMask_iff 0xF 0x55).2 ⟨hg, hk⟩
  next hk => exact (and_keyMask_iff 0xF 0x65).2 ⟨hg, hk⟩

/-- The first level of dispatch, read backwards: the word stands in the row of the instruction it decodes to. -/
theorem row_of_decode (h : decode w = .ok i) : w &&& i.mask = i.matchBits := by
  unfold decode at h
  split at h
  next hg => exact row_of_decodeGroup0 hg h
  next hg => cases h; exact (and_groupMask_iff 0x1).2 hg
  next hg => cases h; exact (and_groupMask_iff 0x2).2 hg
  next hg => cases h; exact (and_groupMask_iff 0x3).2 hg
  next hg => cases h; exact (and_groupMask_iff 0x4).2 hg
  next hg => cases h; exact (and_groupMask_iff 0x5).2 hg
  next hg => cases h; exact (and_groupMask_iff 0x6).2 hg
  next hg => cases h; exact (and_groupMask_iff 0x7).2 hg
  next hg => exact row_of_decodeGroup8 hg h
  next hg => cases h; exact (and_groupMask_iff 0x9).2 hg
  next hg => cases h; exact (and_groupMask_iff 0xA).2 hg
  next hg => cases h; exact (and_groupMask_iff 0xB).2 hg
  next hg => cases h; exact (and_groupMask_iff 0xC).2 hg
  next hg => cases h; exact (and_groupMask_iff 0xD).2 hg
  next hg => exact row_of_decodeGroupE hg h
  next h0 h1 h2 h3 h4 h5 h6 h7 h8 h9 hA hB hC hD hE =>
    exact row_of_decodeGroupF (groupOf_last w h0 h1 h2 h3 h4 h5 h6 h7 h8 h9 hA hB hC hD hE) h

end

/-! ### The words no row selects (R98) -/

theorem decodeGroup0_error_iff : decodeGroup0 w = .error (.unknownOpcode w) ↔ lowNibble w ∉ [0x0#4, 0xE#4] := by
  unfold decodeGroup0
  split <;> simp_all

theorem decodeGroup8_error_iff : decodeGroup8 w = .error (.unknownOpcode w) ↔
    lowNibble w ∈ [0x8#4, 0x9#4, 0xA#4, 0xB#4, 0xC#4, 0xD#4, 0xF#4] := by
  have hkeys : ∀ n : BitVec 4, n ∈ [0x8#4, 0x9#4, 0xA#4, 0xB#4, 0xC#4, 0xD#4, 0xF#4] ↔
      n ∉ [0x0#4, 0x1#4, 0x2#4, 0x3#4, 0x4#4, 0x5#4, 0x6#4, 0x7#4, 0xE#4] := by decide
  rw [hkeys]
  unfold decodeGroup8
  split <;> simp_all

theorem decodeGroupE_error_iff : decodeGroupE w = .error (.unknownOpcode w) ↔ lowNibble w ∉ [0x1#4, 0xE#4] := by
  unfold decodeGroupE
  split <;> simp_all

theorem decodeGroupF_error_iff : decodeGroupF w = .error (.unknownOpcode w) ↔
    fieldKK w ∉ [0x07#8, 0x0A#8, 0x15#8, 0x18#8, 0x1E#8, 0x29#8, 0x33#8, 0x55#8, 0x65#8] := by
  unfold decodeGroupF
  split <;> simp_all

/-- A word is UNKNOWN exactly when its group has secondary keys and the word has none of them. -/
theorem decode_error_iff : decode w = .error (.unknownOpcode w) ↔
    (groupOf w = 0x0 ∧ decodeGroup0 w = .error (.unknownOpcode w)) ∨
    (groupOf w = 0x8 ∧ decodeGroup8 w = .error (.unknownOpcode w)) ∨
    (groupOf w = 0xE ∧ decodeGroupE w = .error (.unknownOpcode w)) ∨
    (groupOf w = 0xF ∧ decodeGroupF w = .error (.unknownOpcode w)) := by
  unfold decode
  split
  case h_16 h0 h1 h2 h3 h4 h5 h6 h7 h8 h9 hA hB hC hD hE =>
    have hF : groupOf w = 0xF := groupOf_last w h0 h1 h2 h3 h4 h5 h6 h7 h8 h9 hA hB hC hD hE
    simp [hF]
  all_goals simp_all

theorem decode_total (w : Opcode) : (∃ i, decode w = .ok i) ∨ decode w = .error (.unknownOpcode w) := by
  cases h : decode w with
  | ok i => exact .inl ⟨i, rfl⟩
  | error e => exact .inr (by rw [decode_error h])

/-- In group 0xF a byte that is none of the nine keys is UNKNOWN, whatever X is. -/
theorem decode_packXKK_unknown (x : Reg) {kk : Byte}
    (hk : kk ∉ [0x07#8, 0x0A#8, 0x15#8, 0x18#8, 0x1E#8, 0x29#8, 0x33#8, 0x55#8, 0x65#8]) :
    decode (packXKK 0xF x kk) = .error (.unknownOpcode (packXKK 0xF x kk)) := by
  rw [decode_packXKK_groupF, decodeGroupF_error_iff, fieldKK_packXKK]
  exact hk

end

/-! ### The obligations -/

/-- Settles O1: the word by `decode_encode`, the bytes because a word is its two bytes. -/
theorem decodeOfEncodeIsTheInstruction : Obligations.DecodeOfEncodeIsTheInstruction := by
  intro i
  exact ⟨wellFormed_eq_true i, decode_encode i, decodeBytes_encodeBytes i⟩

/-- Settles O2: a row's mask and match are a condition on the keys the decoder dispatches on, in both directions. -/
theorem decodeSelectsTheRowByMaskAndMatch : Obligations.DecodeSelectsTheRowByMaskAndMatch := by
  refine ⟨fun w i => row_of_decode, fun w i => decode_of_row, fun w e h => ⟨decode_error h, fun i hrow => ?_⟩⟩
  obtain ⟨j, hj, -, -⟩ := decode_of_row hrow
  rw [h] at hj
  cases hj

/-- Settles O3: by group, and within the four groups that have secondary keys by the key. -/
theorem unknownEncodingsAreExactlyThese : Obligations.UnknownEncodingsAreExactlyThese := by
  refine ⟨fun w => ?unknown, decode_total, ?extended0, by decide, by decide, by decide, fun x => ?extendedF⟩
  case unknown =>
    rw [decode_error_iff, decodeGroup0_error_iff, decodeGroup8_error_iff, decodeGroupE_error_iff,
      decodeGroupF_error_iff]
    rfl
  case extended0 =>
    simp only [List.forall_mem_cons, List.not_mem_nil, false_implies, implies_true, and_true]
    decide
  case extendedF =>
    simp only [List.forall_mem_cons, List.not_mem_nil, false_implies, implies_true, and_true]
    exact ⟨decode_packXKK_unknown x (by decide), decode_packXKK_unknown x (by decide),
      decode_packXKK_unknown x (by decide)⟩

/-- Settles O4: these rows are selected by keys that leave the ignored bits out. -/
theorem aliasEncodingsDecodeAsTheCanonicalOnes : Obligations.AliasEncodingsDecodeAsTheCanonicalOnes := by
  refine ⟨fun a b => ⟨decode_packNibbles_cls a b, decode_packNibbles_ret a b⟩, fun x y n => ?_, fun x a => ?_⟩
  · exact ⟨decode_packXYN_seReg x y n, decode_packXYN_sneReg x y n⟩
  · exact ⟨decode_packNibbles_skp x a, decode_packNibbles_sknp x a⟩

/-- Settles O5: twelve words, evaluated. -/
theorem wordsOfTheTableDecode : Obligations.WordsOfTheTableDecode := by
  unfold Obligations.WordsOfTheTableDecode
  decide

end Sys2Proof
end

section
/-! The execute stage (30_encoding.md R90 stage 4), once for all instructions: its equations, the frame of each kind of
write, the faults it takes by the table of 60_exceptions.md R231, and what it leaves in `pc` and in memory otherwise. -/

namespace Sys2Proof.Machine

variable (s : State)

/-! ### Equations of the execute stages -/

section
variable (x y : Reg)

theorem exec_cls : exec .cls s = .next (s.setDisplay clearDisplay) := rfl

theorem exec_ret_of_pos (h : 0 < s.sp.val) : exec .ret s = .next (s.drop.setPc (s.top h)) := dif_pos h

theorem exec_ret_of_empty (h : s.sp.val = 0) : exec .ret s = .next (s.raise .stackUnderflow 0) := dif_neg (by omega)

theorem exec_call_of_lt (nnn : Nnn) (h : s.sp.val < 16) :
    exec (.call nnn) s = .next ((s.push s.pc h).setPc (zextNnn nnn)) := dif_pos h

theorem exec_call_of_full (nnn : Nnn) (h : s.sp.val = 16) : exec (.call nnn) s = .next (s.raise .stackOverflow 16) :=
  dif_neg (by omega)

theorem exec_seReg : exec (.seReg x y) s = .next (s.skipIf (s.reg x == s.reg y)) := rfl

theorem exec_sneReg : exec (.sneReg x y) s = .next (s.skipIf (s.reg x != s.reg y)) := rfl

theorem exec_jpV0 (nnn : Nnn) : exec (.jpV0 nnn) s = .next (s.setPc (zextByte (s.reg 0) + zextNnn nnn)) := rfl

theorem exec_ldF : exec (.ldF x) s = .next (s.setIndex (glyphAddr (s.reg x))) := rfl

theorem exec_rnd (kk : Byte) : exec (.rnd x kk) s = .next (s.takeDraw.setReg x (s.randomByte &&& kk)) := rfl

/-- The state in which the second line of a flag-writing operation runs: the flag is written, nothing else (R152). -/
def State.withFlag (c : Bool) : State := s.setReg VF (flagByte c)

theorem State.reg_withFlag (c : Bool) (r : Reg) : (s.withFlag c).reg r = if r = VF then flagByte c else s.reg r :=
  s.reg_setReg VF r _

theorem exec_addReg : exec (.addReg x y) s =
    .next ((s.withFlag (carryOut (s.reg x) (s.reg y))).setReg x (s.reg x + s.reg y)) := rfl

theorem exec_subReg : exec (.subReg x y) s =
    .next ((s.withFlag (strictlyGreater (s.reg x) (s.reg y))).setReg x
      ((s.withFlag (strictlyGreater (s.reg x) (s.reg y))).reg x -
        (s.withFlag (strictlyGreater (s.reg x) (s.reg y))).reg y)) := rfl

theorem exec_subnReg : exec (.subnReg x y) s =
    .next ((s.withFlag (strictlyGreater (s.reg y) (s.reg x))).setReg x
      ((s.withFlag (strictlyGreater (s.reg y) (s.reg x))).reg y -
        (s.withFlag (strictlyGreater (s.reg y) (s.reg x))).reg x)) := rfl

theorem exec_shr : exec (.shr x y) s =
    .next ((s.withFlag (shiftedOutRight (s.reg x))).setReg x
      ((s.withFlag (shiftedOutRight (s.reg x))).reg x >>> 1)) := rfl

theorem exec_shl : exec (.shl x y) s =
    .next ((s.withFlag (shiftedOutLeft (s.reg x))).setReg x
      ((s.withFlag (shiftedOutLeft (s.reg x))).reg x <<< 1)) := rfl

variable {s x} in
theorem exec_skp_of_le (h : (s.reg x).toNat ≤ 15) :
    exec (.skp x) s = .next (s.skipIf (s.key.getLsbD (s.reg x).toNat)) := s.withKey_inside _ h

variable {s x} in
theorem exec_sknp_of_le (h : (s.reg x).toNat ≤ 15) :
    exec (.sknp x) s = .next (s.skipIf (!s.key.getLsbD (s.reg x).toNat)) :=
  s.withKey_inside (fun down => s.skipIf (!down)) h

variable {s x} in
theorem exec_skp_of_gt (h : (s.reg x).toNat > 15) :
    exec (.skp x) s = .next (s.raise .keyIndexOutOfRange (BitVec.ofNat 16 (s.reg x).toNat)) := by
  rw [← zextByte_eq]; exact s.withKey_outside _ h

variable {s x} in
theorem exec_sknp_of_gt (h : (s.reg x).toNat > 15) :
    exec (.sknp x) s = .next (s.raise .keyIndexOutOfRange (BitVec.ofNat 16 (s.reg x).toNat)) := by
  rw [← zextByte_eq]; exact s.withKey_outside (fun down => s.skipIf (!down)) h

/-- The memory an FX33 leaves. -/
def State.storeDigits : Memory := s.mem.writeBytes (s.dataAddr 0) (bcdDigits (s.reg x))

/-- The canvas a DXYN leaves. -/
def State.drawn (n : RowCount) : Canvas := drawSprite (s.sprite x y n.val) s.display

variable {s}

theorem exec_ldB_inside (h : s.i.toNat + 2 ≤ 0xFFF) : exec (.ldB x) s = .next (s.setMem (s.storeDigits x)) :=
  s.withData_inside _ (.inr h)

theorem exec_ldB_outside (h : s.i.toNat + 2 > 0xFFF) :
    exec (.ldB x) s = .next (s.raise .dataOutOfBounds (maxIndex s)) := s.withData_outside _ ⟨by omega, h⟩

theorem exec_ldMemVx_inside (h : s.i.toNat + x.val ≤ 0xFFF) :
    exec (.ldMemVx x) s = .next (s.setMem (storeRegs s (x.val + 1))) := s.withData_inside _ (.inr h)

theorem exec_ldMemVx_outside (h : s.i.toNat + x.val > 0xFFF) :
    exec (.ldMemVx x) s = .next (s.raise .dataOutOfBounds (maxIndex s)) := s.withData_outside _ ⟨by omega, h⟩

theorem exec_ldVxMem_inside (h : s.i.toNat + x.val ≤ 0xFFF) :
    exec (.ldVxMem x) s = .next (loadRegs s (x.val + 1)) := s.withData_inside _ (.inr h)

theorem exec_ldVxMem_outside (h : s.i.toNat + x.val > 0xFFF) :
    exec (.ldVxMem x) s = .next (s.raise .dataOutOfBounds (maxIndex s)) := s.withData_outside _ ⟨by omega, h⟩

theorem exec_drw_inside {n : RowCount} (h : n.val = 0 ∨ s.i.toNat + n.val - 1 ≤ 0xFFF) :
    exec (.drw x y n) s =
      .next ((s.setDisplay (s.drawn x y n).pixels).setReg VF (flagByte (s.drawn x y n).collision)) :=
  s.withData_inside _ h

theorem exec_drw_outside {n : RowCount} (h : n.val ≠ 0 ∧ s.i.toNat + n.val - 1 > 0xFFF) :
    exec (.drw x y n) s = .next (s.raise .dataOutOfBounds (maxIndex s)) := s.withData_outside _ h

end

/-! ### The frame of each kind of write -/

section
variable (x : Reg)

theorem State.setDisplay_frame (d : Display) : Frame { display := true } s (s.setDisplay d) := by
  constructor <;> simp

theorem State.setMem_frame {m : Memory} {l : List Nat} (h : ∀ a, a ∉ l → m.read a = s.mem.read a) :
    Frame { mem := l } s (s.setMem m) := by
  constructor
  case mem => exact h
  all_goals simp

theorem State.drop_setPc_frame (a : Addr) : Frame { pc := true, sp := true } s (s.drop.setPc a) := by
  constructor <;> simp

theorem State.skipIf_mem (c : Bool) : (s.skipIf c).mem = s.mem := by rw [State.skipIf_eq, State.setPc_mem]

theorem State.push_setPc_frame (a b : Addr) (h : s.sp.val < 16) :
    Frame { pc := true, sp := true, stack := [s.sp.val] } s ((s.push a h).setPc b) := by
  constructor
  case stack =>
    intro k hk
    have hne : s.sp.val ≠ k.val := fun e => hk (by simp [e])
    simp [hne]
  all_goals simp

theorem State.withFlag_setReg_frame (c : Bool) (b : Byte) :
    Frame { regs := [x, VF] } s ((s.withFlag c).setReg x b) := by
  constructor
  case regs =>
    intro r hr
    simp only [List.mem_cons, List.not_mem_nil, or_false, not_or] at hr
    rw [State.reg_setReg_ne _ b hr.1, State.reg_withFlag, if_neg hr.2]
  all_goals simp [State.withFlag]

theorem State.takeDraw_setReg_frame (b : Byte) : Frame { regs := [x], draw := true } s (s.takeDraw.setReg x b) := by
  constructor
  case regs => exact fun _ hr => s.takeDraw.reg_setReg_ne b (List.ne_of_not_mem_cons hr)
  all_goals simp

theorem State.setDisplay_setReg_frame (d : Display) (b : Byte) :
    Frame { regs := [x], display := true } s ((s.setDisplay d).setReg x b) := by
  constructor
  case regs => exact fun _ hr => (s.setDisplay d).reg_setReg_ne b (List.ne_of_not_mem_cons hr)
  all_goals simp

theorem loadRegs_frame : Frame { regs := (List.finRange 16).filter fun r => decide (r ≤ x) } s
    (loadRegs s (x.val + 1)) := by
  obtain ⟨v, hv⟩ : ∃ v, loadRegs s (x.val + 1) = { s with v := v } := ⟨_, loadRegs_rest s _⟩
  constructor
  case regs =>
    intro r hr
    rw [loadRegs_reg s _ (by omega), if_neg]
    intro hlt
    exact hr (List.mem_filter.2 ⟨List.mem_finRange r, decide_eq_true (Nat.le_of_lt_succ hlt)⟩)
  all_goals simp [hv]

theorem storeRegs_frame : Frame { mem := (List.range (x.val + 1)).map s.dataAddr } s
    (s.setMem (storeRegs s (x.val + 1))) := by
  apply s.setMem_frame
  intro a ha
  rw [storeRegs_read, if_neg]
  rintro ⟨hle, hlt⟩
  exact ha (List.mem_map.2 ⟨a - s.i.toNat, List.mem_range.2 (by omega), by rw [State.dataAddr]; omega⟩)

theorem storeDigits_read (a : Nat) : (s.storeDigits x).read a = byteAfter (.ldB x) s a := by
  rw [State.storeDigits, Memory.read_writeBytes, byteAfter]
  by_cases h : s.dataAddr 0 ≤ a ∧ a < s.dataAddr 0 + (bcdDigits (s.reg x)).length
  · rw [dif_pos h]
    rw [State.dataAddr, Nat.add_zero, bcdDigits_length] at h
    obtain ⟨k, rfl⟩ := Nat.exists_eq_add_of_le h.1
    obtain rfl | rfl | rfl : k = 0 ∨ k = 1 ∨ k = 2 := by omega
    all_goals simp [bcdDigits, State.dataAddr]
  · rw [dif_neg h]
    rw [State.dataAddr, Nat.add_zero, bcdDigits_length] at h
    rw [if_neg (by omega), if_neg (by omega), if_neg (by omega)]

theorem storeDigits_frame : Frame { mem := [s.dataAddr 0, s.dataAddr 1, s.dataAddr 2] } s
    (s.setMem (s.storeDigits x)) := by
  apply s.setMem_frame
  intro a ha
  simp only [State.dataAddr, Nat.add_zero, List.mem_cons, List.not_mem_nil, or_false, not_or] at ha
  obtain ⟨h0, h1, h2⟩ := ha
  rw [storeDigits_read, byteAfter, if_neg h0, if_neg h1, if_neg h2]

end

/-! ### The fault table (60_exceptions.md R231) -/

section
variable {s} {i : Instr}

/-- An instruction in a condition of the table takes that fault. -/
theorem exec_of_faultOf {c : FaultCause} {n : Addr} (h : faultOf i s = some (c, n)) :
    exec i s = .next (s.raise c n) := by
  cases i <;>
    simp only [faultOf, reduceCtorEq, Option.ite_none_right_eq_some, Option.some.injEq, Prod.mk.injEq] at h <;>
    obtain ⟨hc, rfl, rfl⟩ := h
  case ret => exact exec_ret_of_empty s hc
  case call nnn => exact exec_call_of_full s nnn hc
  case drw x y n => exact exec_drw_outside x y ⟨by omega, hc.2⟩
  case skp x => exact exec_skp_of_gt hc
  case sknp x => exact exec_sknp_of_gt hc
  case ldB x => exact exec_ldB_outside x hc
  case ldMemVx x => exact exec_ldMemVx_outside x hc
  case ldVxMem x => exact exec_ldVxMem_outside x hc

/-- An instruction in no condition of the table answers a next state, which differs only in what `writes` lists. -/
theorem exec_of_faultOf_none (h : faultOf i s = none) : ∃ t, exec i s = .next t ∧ Frame (writes i s) s t := by
  cases i <;> simp only [faultOf, ite_eq_right_iff, reduceCtorEq, imp_false, gt_iff_lt] at h
  case cls => exact ⟨_, exec_cls s, s.setDisplay_frame _⟩
  case ret => exact ⟨_, exec_ret_of_pos s (by omega), s.drop_setPc_frame _⟩
  case jp nnn => exact ⟨_, exec_jp s nnn, s.setPc_frame _⟩
  case call nnn => exact ⟨_, exec_call_of_lt s nnn (by omega), s.push_setPc_frame _ _ _⟩
  case seImm x kk => exact ⟨_, exec_seImm s x kk, s.skipIf_frame _⟩
  case sneImm x kk => exact ⟨_, exec_sneImm s x kk, s.skipIf_frame _⟩
  case seReg x y => exact ⟨_, exec_seReg s x y, s.skipIf_frame _⟩
  case sneReg x y => exact ⟨_, exec_sneReg s x y, s.skipIf_frame _⟩
  case ldImm x kk => exact ⟨_, exec_ldImm s x kk, s.setReg_frame x _⟩
  case addImm x kk => exact ⟨_, exec_addImm s x kk, s.setReg_frame x _⟩
  case ldReg x y => exact ⟨_, exec_ldReg s x y, s.setReg_frame x _⟩
  case orReg x y => exact ⟨_, exec_orReg s x y, s.setReg_frame x _⟩
  case andReg x y => exact ⟨_, exec_andReg s x y, s.setReg_frame x _⟩
  case xorReg x y => exact ⟨_, exec_xorReg s x y, s.setReg_frame x _⟩
  case addReg x y => exact ⟨_, exec_addReg s x y, s.withFlag_setReg_frame x _ _⟩
  case subReg x y => exact ⟨_, exec_subReg s x y, s.withFlag_setReg_frame x _ _⟩
  case shr x y => exact ⟨_, exec_shr s x y, s.withFlag_setReg_frame x _ _⟩
  case subnReg x y => exact ⟨_, exec_subnReg s x y, s.withFlag_setReg_frame x _ _⟩
  case shl x y => exact ⟨_, exec_shl s x y, s.withFlag_setReg_frame x _ _⟩
  case ldI nnn => exact ⟨_, exec_ldI s nnn, s.setIndex_frame _⟩
  case jpV0 nnn => exact ⟨_, exec_jpV0 s nnn, s.setPc_frame _⟩
  case rnd x kk => exact ⟨_, exec_rnd s x kk, s.takeDraw_setReg_frame x _⟩
  case drw x y n => exact ⟨_, exec_drw_inside x y (by omega), s.setDisplay_setReg_frame VF _ _⟩
  case skp x => exact ⟨_, exec_skp_of_le (by omega), s.skipIf_frame _⟩
  case sknp x => exact ⟨_, exec_sknp_of_le (by omega), s.skipIf_frame _⟩
  case ldVxDt x => exact ⟨_, exec_ldVxDt s x, s.setReg_frame x _⟩
  case ldDtVx x => exact ⟨_, exec_ldDtVx s x, s.setDelay_frame _⟩
  case ldStVx x => exact ⟨_, exec_ldStVx s x, s.setSound_frame _⟩
  case ldVxK x =>
    cases hscan : s.lastKeyDown 16 with
    | none => exact ⟨_, exec_ldVxK_of_none x hscan, { s.setPc_frame _ with regs := fun _ _ => rfl }⟩
    | some k => exact ⟨_, exec_ldVxK_of_some x hscan, { s.setReg_frame x _ with pc := fun _ => rfl }⟩
  case addI x => exact ⟨_, exec_addI s x, s.setIndex_frame _⟩
  case ldF x => exact ⟨_, exec_ldF s x, s.setIndex_frame _⟩
  case ldB x => exact ⟨_, exec_ldB_inside x (by omega), storeDigits_frame s x⟩
  case ldMemVx x => exact ⟨_, exec_ldMemVx_inside x (by omega), storeRegs_frame s x⟩
  case ldVxMem x => exact ⟨_, exec_ldVxMem_inside x (by omega), loadRegs_frame s x⟩

/-- No instruction lists the fault registers as written. -/
theorem writes_fault (i : Instr) (s : State) : (writes i s).fault = false := by cases i <;> rfl

/-- Room on the stack is what the table asks of a call. -/
theorem sp_lt_of_faultOf_call {nnn : Nnn} (h : faultOf (.call nnn) s = none) : s.sp.val < 16 := by
  simp only [faultOf, ite_eq_right_iff, reduceCtorEq, imp_false] at h
  omega

/-- The table does not look at `pc`. -/
theorem faultOf_advance (i : Instr) (s : State) : faultOf i s.advance = faultOf i s := by cases i <;> rfl

theorem byteAfter_advance (i : Instr) (s : State) (a : Nat) : byteAfter i s.advance a = byteAfter i s a := by
  cases i <;> rfl

/-- The frame of an execute stage that is known to answer `t`. -/
theorem exec_frame {t : State} (hf : faultOf i s = none) (he : exec i s = .next t) : Frame (writes i s) s t := by
  obtain ⟨u, hu, hframe⟩ := exec_of_faultOf_none hf
  rw [he] at hu
  cases hu
  exact hframe

theorem exec_faultRegs {t : State} (hf : faultOf i s = none) (he : exec i s = .next t) :
    t.faultCause = s.faultCause ∧ t.faultPc = s.faultPc ∧ t.faultInfo = s.faultInfo := by
  have hframe := exec_frame hf he
  have hw := writes_fault i s
  exact ⟨hframe.faultCause hw, hframe.faultPc hw, hframe.faultInfo hw⟩

/-- The state an execute stage answers is the one its equation names. -/
theorem eq_of_exec {t u : State} (he : exec i s = .next t) (hu : exec i s = .next u) : t = u :=
  Host.Outcome.next.inj (he.symm.trans hu)

end

/-! ### Where an execute stage leaves `pc` -/

section
variable {s} {i : Instr} {t : State}

theorem State.lastKeyDown_eq_none_iff {n : Nat} : s.lastKeyDown n = none ↔ ∀ j, j < n → s.keyDown j = false := by
  refine ⟨fun h => ?_, s.lastKeyDown_none⟩
  induction n with
  | zero => intro j hj; omega
  | succ n ih =>
    rw [State.lastKeyDown] at h
    split at h
    · cases h
    next hn =>
      intro j hj
      rcases Nat.lt_succ_iff_lt_or_eq.1 hj with hlt | rfl
      · exact ih h j hlt
      · simpa using hn

theorem State.lastKeyDown_sixteen_eq_none_iff : s.lastKeyDown 16 = none ↔ s.key = 0 := by
  refine ⟨fun h => ?_, fun h => s.lastKeyDown_of_key_eq_zero h 16⟩
  apply BitVec.eq_of_getLsbD_eq
  intro j hj
  rw [BitVec.ofNat_eq_ofNat, BitVec.getLsbD_zero]
  exact State.lastKeyDown_eq_none_iff.1 h j hj

/-- A skip from the advanced `pc` goes where the table of R24 says. -/
theorem State.advance_skipIf_pc {c : Bool} {p : Prop} [Decidable p] (h : c = true ↔ p) :
    (s.advance.skipIf c).pc = skipTarget s.pc p := by
  rw [State.skipIf_pc, skipTarget, State.advance_pc, BitVec.add_assoc, if_congr h rfl rfl]
  rfl

theorem zextNnn_eq (nnn : Nnn) : zextNnn nnn = BitVec.ofNat 16 nnn.toNat :=
  BitVec.eq_of_toNat_eq (by rw [zextNnn_toNat, BitVec.toNat_ofNat, Nat.mod_eq_of_lt (by omega)])

theorem zextByte_add_zextNnn_toNat (b : Byte) (nnn : Nnn) :
    (zextByte b + zextNnn nnn).toNat = b.toNat + nnn.toNat := by
  rw [BitVec.toNat_add, zextByte_toNat, zextNnn_toNat, Nat.mod_eq_of_lt (by omega)]

/-- An execute stage that takes no fault leaves `pc` as the table of R24 says. -/
theorem exec_pc (hf : faultOf i s = none) (he : exec i s.advance = .next t) : t.pc = pcAfter i s := by
  have hframe := exec_frame ((faultOf_advance i s).trans hf) he
  cases i <;> simp only [faultOf, ite_eq_right_iff, reduceCtorEq, imp_false, gt_iff_lt] at hf
  case ret =>
    have hpos : 0 < s.sp.val := by omega
    rw [eq_of_exec he (exec_ret_of_pos s.advance hpos), pcAfter, dif_pos hpos]
    rfl
  case jp nnn => rw [eq_of_exec he (exec_jp s.advance nnn), State.setPc_pc, zextNnn_eq, pcAfter]
  case call nnn =>
    rw [eq_of_exec he (exec_call_of_lt s.advance nnn (by simp; omega)), State.setPc_pc, zextNnn_eq, pcAfter]
  case seImm x kk => rw [eq_of_exec he (exec_seImm s.advance x kk)]; exact State.advance_skipIf_pc (by simp)
  case sneImm x kk => rw [eq_of_exec he (exec_sneImm s.advance x kk)]; exact State.advance_skipIf_pc (by simp)
  case seReg x y => rw [eq_of_exec he (exec_seReg s.advance x y)]; exact State.advance_skipIf_pc (by simp)
  case sneReg x y => rw [eq_of_exec he (exec_sneReg s.advance x y)]; exact State.advance_skipIf_pc (by simp)
  case skp x => rw [eq_of_exec he (exec_skp_of_le (by simp; omega))]; exact State.advance_skipIf_pc (by simp)
  case sknp x => rw [eq_of_exec he (exec_sknp_of_le (by simp; omega))]; exact State.advance_skipIf_pc (by simp)
  case jpV0 nnn =>
    rw [eq_of_exec he (exec_jpV0 s.advance nnn), State.setPc_pc, pcAfter]
    apply BitVec.eq_of_toNat_eq
    rw [zextByte_add_zextNnn_toNat, BitVec.toNat_ofNat, Nat.mod_eq_of_lt (by omega), State.reg_advance]
  case ldVxK x =>
    cases hscan : s.advance.lastKeyDown 16 with
    | none =>
      have hkey : s.key = 0 := State.lastKeyDown_sixteen_eq_none_iff.1 hscan
      rw [eq_of_exec he (exec_ldVxK_of_none x hscan), State.advance_setPc_back, pcAfter, if_pos hkey]
    | some k =>
      have hkey : s.key ≠ 0 := fun h => by
        rw [State.lastKeyDown_of_key_eq_zero (s := s.advance) h] at hscan
        cases hscan
      rw [eq_of_exec he (exec_ldVxK_of_some x hscan), pcAfter, if_neg hkey]
      rfl
  all_goals exact hframe.pc rfl

end

/-! ### What an execute stage leaves in memory -/

section
variable {s} {i : Instr} {t : State}

/-- Every byte after an execute stage that takes no fault (42_index_memory.md R173, R174). -/
theorem exec_read (hf : faultOf i s = none) (he : exec i s = .next t) (a : Nat) : t.mem.read a = byteAfter i s a := by
  have hframe := exec_frame hf he
  cases i <;> simp only [faultOf, ite_eq_right_iff, reduceCtorEq, imp_false, gt_iff_lt] at hf
  case ldB x => rw [eq_of_exec he (exec_ldB_inside x (by omega))]; exact storeDigits_read s x a
  case ldMemVx x =>
    rw [eq_of_exec he (exec_ldMemVx_inside x (by omega)), State.setMem_mem, storeRegs_read, byteAfter]
    exact if_congr (by omega) rfl rfl
  all_goals exact hframe.mem a List.not_mem_nil

/-- An execute stage keeps the canonical form: FX33 and FX55 store inside the 4096 bytes, no other one stores. -/
theorem exec_wf (hf : faultOf i s = none) (he : exec i s = .next t) (hwf : s.mem.wf = true) : t.mem.wf = true := by
  cases i <;> simp only [faultOf, ite_eq_right_iff, reduceCtorEq, imp_false, gt_iff_lt] at hf
  case ldB x =>
    rw [eq_of_exec he (exec_ldB_inside x (by omega))]
    exact Memory.wf_writeBytes _ _ _ hwf (by rw [State.dataAddr, bcdDigits_length]; omega)
  case ldMemVx x =>
    rw [eq_of_exec he (exec_ldMemVx_inside x (by omega))]
    exact storeRegs_wf s _ hwf (by omega)
  case ldVxMem x => rw [eq_of_exec he (exec_ldVxMem_inside x (by omega)), loadRegs_rest]; exact hwf
  case drw x y n => rw [eq_of_exec he (exec_drw_inside x y (by omega))]; exact hwf
  case ret => rw [eq_of_exec he (exec_ret_of_pos s (by omega))]; exact hwf
  case call nnn => rw [eq_of_exec he (exec_call_of_lt s nnn (by omega))]; exact hwf
  case skp x => rwa [eq_of_exec he (exec_skp_of_le (by omega)), State.skipIf_mem]
  case sknp x => rwa [eq_of_exec he (exec_sknp_of_le (by omega)), State.skipIf_mem]
  case seImm x kk => rwa [eq_of_exec he (exec_seImm s x kk), State.skipIf_mem]
  case sneImm x kk => rwa [eq_of_exec he (exec_sneImm s x kk), State.skipIf_mem]
  case seReg x y => rwa [eq_of_exec he (exec_seReg s x y), State.skipIf_mem]
  case sneReg x y => rwa [eq_of_exec he (exec_sneReg s x y), State.skipIf_mem]
  case ldVxK x =>
    cases hscan : s.lastKeyDown 16 with
    | none => rw [eq_of_exec he (exec_ldVxK_of_none x hscan)]; exact hwf
    | some k => rw [eq_of_exec he (exec_ldVxK_of_some x hscan)]; exact hwf
  all_goals exact Host.Outcome.next.inj he ▸ hwf

end

end Sys2Proof.Machine
end

section
/-! The statements about single instructions: each is the equation of the execute stage, the frame of its write and,
where there is one, the row of the fault table. -/

namespace Sys2Proof

/-! ### Decoding of the canonical words these statements name -/

section
variable (x y : Reg)

theorem decode_packNNN_call (nnn : Nnn) : decode (packNNN 0x2 nnn) = .ok (.call nnn) := decode_encode (.call nnn)

theorem decode_packNNN_jpV0 (nnn : Nnn) : decode (packNNN 0xB nnn) = .ok (.jpV0 nnn) := decode_encode (.jpV0 nnn)

theorem decode_packXYN_addReg : decode (packXYN 0x8 x y 0x4) = .ok (.addReg x y) := decode_encode (.addReg x y)

theorem decode_packXYN_subReg : decode (packXYN 0x8 x y 0x5) = .ok (.subReg x y) := decode_encode (.subReg x y)

theorem decode_packXYN_shr : decode (packXYN 0x8 x y 0x6) = .ok (.shr x y) := decode_encode (.shr x y)

theorem decode_packXYN_subnReg : decode (packXYN 0x8 x y 0x7) = .ok (.subnReg x y) := decode_encode (.subnReg x y)

theorem decode_packXYN_shl : decode (packXYN 0x8 x y 0xE) = .ok (.shl x y) := decode_encode (.shl x y)

theorem decode_packXKK_rnd (kk : Byte) : decode (packXKK 0xC x kk) = .ok (.rnd x kk) := decode_encode (.rnd x kk)

theorem decode_packXYN_drw (n : RowCount) : decode (packXYN 0xD x y (regBits n)) = .ok (.drw x y n) :=
  decode_encode (.drw x y n)

theorem decode_packXKK_ldF : decode (packXKK 0xF x 0x29) = .ok (.ldF x) := decode_encode (.ldF x)

theorem decode_packXKK_ldB : decode (packXKK 0xF x 0x33) = .ok (.ldB x) := decode_encode (.ldB x)

theorem decode_packXKK_ldMemVx : decode (packXKK 0xF x 0x55) = .ok (.ldMemVx x) := decode_encode (.ldMemVx x)

theorem decode_packXKK_ldVxMem : decode (packXKK 0xF x 0x65) = .ok (.ldVxMem x) := decode_encode (.ldVxMem x)

end

end Sys2Proof

namespace Sys2Proof.Machine

/-! ### Faults and frames in the terms of the statements -/

section
variable {s : State} {i : Instr}

/-- An instruction in a condition of the fault table takes the fault and nothing else. -/
theorem exec_fault_effect {c : FaultCause} {n : Addr} (h : faultOf i s = some (c, n)) :
    ∃ t, exec i s = .next t ∧ FaultTaken c n s t := ⟨_, exec_of_faultOf h, s.raise_taken c n⟩

end

/-- Settles O20: by the fault table, whose rows say which of the two frames an instruction has. -/
theorem everyInstructionKeepsItsFrame : Obligations.EveryInstructionKeepsItsFrame := by
  intro i s t hrun he
  cases hf : faultOf i s with
  | none =>
    have hnone : t.faultCause = 0 := (exec_faultRegs hf he).1.trans hrun
    exact ⟨fun _ => exec_frame hf he, fun h => absurd hnone h⟩
  | some fault =>
    obtain ⟨c, n⟩ := fault
    obtain ⟨u, hu, htaken⟩ := exec_fault_effect hf
    obtain rfl : t = u := eq_of_exec he hu
    have hcode : t.faultCause ≠ 0 := htaken.cause ▸ s.code_ne_zero c
    exact ⟨fun h => absurd h hcode, fun _ => ⟨c, htaken.info ▸ htaken⟩⟩

/-! ### Control transfer (40_control_flow.md) -/

/-- Settles O32: with an entry to pop, `pc` is that entry and `sp` one less; with none, the fault of R237. -/
theorem returnPopsTheStack : Obligations.ReturnPopsTheStack := by
  refine ⟨decode_packNibbles_ret, fun s => ⟨fun hsp => ?pops, fun hsp => ?underflow⟩⟩
  case pops =>
    have hpos : 0 < s.sp.val := Nat.pos_of_ne_zero hsp
    refine ⟨_, exec_ret_of_pos s hpos, s.drop_sp, ?_, s.drop_setPc_frame _⟩
    rw [State.setPc_pc, State.top, Vector.getElem?_eq_getElem]
  case underflow => exact exec_fault_effect (if_pos hsp)

/-- Settles O34: with room for an entry, the push and the jump; with none, the fault of R236. -/
theorem callPushesAndJumps : Obligations.CallPushesAndJumps := by
  intro nnn s
  refine ⟨decode_packNNN_call nnn, fun hsp => ?pushes, fun hsp => ?overflow⟩
  case pushes =>
    have hlt : s.sp.val < 16 := by omega
    refine ⟨_, exec_call_of_lt s nnn hlt, ?_, s.push_sp s.pc hlt, zextNnn_toNat nnn, s.push_setPc_frame _ _ hlt⟩
    rw [State.setPc_stack, State.push_stack, Vector.getElem?_set_self]
  case overflow => exact exec_fault_effect (if_pos hsp)

/-- Settles O36: both execute stages are one `skipIf`, on a condition and on its negation. -/
theorem skipsOnTwoRegisters : Obligations.SkipsOnTwoRegisters := by
  intro x y n s
  refine ⟨decode_packXYN_seReg x y n, decode_packXYN_sneReg x y n, ?seReg, ?sneReg⟩
  case seReg => exact ⟨_, exec_seReg s x y, s.skipIf_beq_pc _ _, s.skipIf_frame _⟩
  case sneReg => exact ⟨_, exec_sneReg s x y, s.skipIf_bne_pc _ _, s.skipIf_frame _⟩

/-- Settles O37: a byte and 12 bits add up to less than 2^16, so the sum written to `pc` is whole. -/
theorem indexedJumpAddsRegisterZero : Obligations.IndexedJumpAddsRegisterZero := by
  intro nnn s
  exact ⟨decode_packNNN_jpV0 nnn, _, exec_jpV0 s nnn, zextByte_add_zextNnn_toNat _ nnn, s.setPc_frame _⟩

/-! ### Registers (41_register_alu.md) -/

section
variable {s : State} {i : Instr} {x : Reg}

/-- What the flag write followed by the write of `V[X]` leaves: the result in `V[X]`, and the flag in VF unless X is F. -/
theorem exec_withFlag_effect {c : Bool} {b : Byte} (h : exec i s = .next ((s.withFlag c).setReg x b)) :
    ∃ t, exec i s = .next t ∧ t.reg x = b ∧ (x ≠ VF → t.reg VF = flagByte c) ∧ Frame { regs := [x, VF] } s t := by
  refine ⟨_, h, State.reg_setReg_self _ x b, fun hx => ?_, s.withFlag_setReg_frame x c b⟩
  rw [State.reg_setReg_ne _ b hx.symm, State.reg_withFlag, if_pos rfl]

theorem flagByte_carryOut (a b : Byte) : flagByte (carryOut a b) = if a.toNat + b.toNat > 255 then 1 else 0 := by
  simp [flagByte, carryOut]

theorem flagByte_strictlyGreater (a b : Byte) :
    flagByte (strictlyGreater a b) = if a.toNat > b.toNat then 1 else 0 := by
  simp [flagByte, strictlyGreater]

theorem flagByte_shiftedOutRight_toNat (a : Byte) : (flagByte (shiftedOutRight a)).toNat = a.toNat % 2 := by
  rw [flagByte, shiftedOutRight, BitVec.getLsbD, Nat.testBit_zero]
  rcases Nat.mod_two_eq_zero_or_one a.toNat with h | h <;> simp [h]

theorem flagByte_shiftedOutLeft_toNat (a : Byte) : (flagByte (shiftedOutLeft a)).toNat = a.toNat / 128 := by
  have hlt := a.isLt
  rw [flagByte, shiftedOutLeft, BitVec.getLsbD, Nat.testBit_eq_decide_div_mod_eq]
  rcases (by omega : a.toNat / 128 = 0 ∨ a.toNat / 128 = 1) with h | h <;> simp [h]

/-- The flag byte itself, shifted right, loses its only bit. -/
theorem flagByte_ushiftRight (c : Bool) : flagByte c >>> 1 = 0 := by cases c <;> rfl

theorem flagByte_shiftLeft (c : Bool) : flagByte c <<< 1 = if c then 2 else 0 := by cases c <;> rfl

theorem flagByte_shiftLeft_toNat (c : Bool) : (flagByte c <<< 1).toNat = 2 * (flagByte c).toNat := by cases c <;> rfl

end

/-- Settles O41: the sum is taken of the old registers and written last. -/
theorem addSetsCarry : Obligations.AddSetsCarry := by
  intro x y s
  obtain ⟨t, hexec, hx, hflag, hframe⟩ := exec_withFlag_effect (exec_addReg s x y)
  rw [flagByte_carryOut] at hflag
  exact ⟨decode_packXYN_addReg x y, t, hexec, by rw [hx, BitVec.toNat_add], hflag, hframe⟩

/-- Settles O42: the difference is taken of the registers after the flag write. -/
theorem subtractSetsStrictFlag : Obligations.SubtractSetsStrictFlag := by
  intro x y s
  obtain ⟨t, hexec, hx, hflag, hframe⟩ := exec_withFlag_effect (exec_subReg s x y)
  rw [State.reg_withFlag, State.reg_withFlag] at hx
  exact ⟨decode_packXYN_subReg x y, t, _, hexec, flagByte_strictlyGreater _ _, hx, hflag, hframe⟩

/-- Settles O43: as for 8XY5, with the operands exchanged. -/
theorem reverseSubtractSetsStrictFlag : Obligations.ReverseSubtractSetsStrictFlag := by
  intro x y s
  obtain ⟨t, hexec, hx, hflag, hframe⟩ := exec_withFlag_effect (exec_subnReg s x y)
  rw [State.reg_withFlag, State.reg_withFlag] at hx
  exact ⟨decode_packXYN_subnReg x y, t, _, hexec, flagByte_strictlyGreater _ _, hx, hflag, hframe⟩

/-- Settles O44: with X = F it is the flag byte that is shifted. -/
theorem shiftRightSetsTheLostBit : Obligations.ShiftRightSetsTheLostBit := by
  intro x y s
  obtain ⟨t, hexec, hx, hflag, hframe⟩ := exec_withFlag_effect (exec_shr s x y)
  rw [State.reg_withFlag] at hx
  refine ⟨decode_packXYN_shr x y, t, hexec, fun hne => ⟨?half, ?lost⟩, fun hVF => ?flag, hframe⟩
  case half => rw [hx, if_neg hne, BitVec.toNat_ushiftRight, Nat.shiftRight_eq_div_pow, Nat.pow_one]
  case lost => rw [hflag hne, flagByte_shiftedOutRight_toNat]
  case flag => rw [← hVF, hx, if_pos hVF, flagByte_ushiftRight]

/-- Settles O45: with X = F it is the flag byte that is shifted. -/
theorem shiftLeftSetsTheLostBit : Obligations.ShiftLeftSetsTheLostBit := by
  intro x y s
  obtain ⟨t, hexec, hx, hflag, hframe⟩ := exec_withFlag_effect (exec_shl s x y)
  rw [State.reg_withFlag] at hx
  refine ⟨decode_packXYN_shl x y, t, hexec, fun hne => ⟨?double, ?lost⟩, fun hVF => ?flag, hframe⟩
  case double => rw [hx, if_neg hne, BitVec.toNat_shiftLeft, Nat.shiftLeft_eq, Nat.pow_one, Nat.mul_comm]
  case lost => rw [hflag hne, flagByte_shiftedOutLeft_toNat]
  case flag => rw [← hVF, hx, if_pos hVF, flagByte_shiftLeft_toNat, flagByte_shiftedOutLeft_toNat]

section
variable {s : State} {i : Instr} {x : Reg} {c : Bool} {b : Byte}

/-- The final value of `V[X]` is the result, written last. -/
theorem regAfter_result (h : exec i s = .next ((s.withFlag c).setReg x b)) : regAfter i s x = some b := by
  rw [regAfter, h, nextState, Option.map_some, State.reg_setReg_self]

/-- The final value of VF is the flag, unless X is F. -/
theorem regAfter_flag (h : exec i s = .next ((s.withFlag c).setReg x b)) (hx : x ≠ VF) :
    regAfter i s VF = some (flagByte c) := by
  rw [regAfter, h, nextState, Option.map_some, State.reg_setReg_ne _ b hx.symm, State.reg_withFlag, if_pos rfl]

end

/-- Settles O46: the result is computed from the registers after the flag write, so a named VF stands for the flag; only
8XY4 takes its sum before. -/
theorem flagRegisterAsOperand : Obligations.FlagRegisterAsOperand := by
  intro s f hf
  subst hf
  refine ⟨fun y hy => ⟨?_, ?_, ?_, ?_, ?_⟩, fun x hx => ⟨?_, ?_, ?_, ?_, ?_, ?_, fun y => ⟨rfl, rfl, rfl, rfl⟩⟩,
    ?_, ?_, ?_, ?_, ?_⟩
  · exact regAfter_result (exec_addReg s VF y)
  · rw [regAfter_result (exec_subReg s VF y), State.reg_withFlag, State.reg_withFlag, if_pos rfl, if_neg hy,
      flagByte_strictlyGreater]
  · rw [regAfter_result (exec_shr s VF y), State.reg_withFlag, if_pos rfl, flagByte_ushiftRight]
  · rw [regAfter_result (exec_subnReg s VF y), State.reg_withFlag, State.reg_withFlag, if_pos rfl, if_neg hy,
      flagByte_strictlyGreater]
  · rw [regAfter_result (exec_shl s VF y), State.reg_withFlag, if_pos rfl, flagByte_shiftLeft, shiftedOutLeft]
  · exact regAfter_result (exec_addReg s x VF)
  · rw [regAfter_flag (exec_addReg s x VF) hx, flagByte_carryOut]
  · rw [regAfter_result (exec_subReg s x VF), State.reg_withFlag, State.reg_withFlag, if_neg hx, if_pos rfl,
      flagByte_strictlyGreater]
  · rw [regAfter_flag (exec_subReg s x VF) hx, flagByte_strictlyGreater]
  · rw [regAfter_result (exec_subnReg s x VF), State.reg_withFlag, State.reg_withFlag, if_pos rfl, if_neg hx,
      flagByte_strictlyGreater]
  · rw [regAfter_flag (exec_subnReg s x VF) hx, flagByte_strictlyGreater]
  · exact regAfter_result (exec_addReg s VF VF)
  · rw [regAfter_result (exec_subReg s VF VF), BitVec.sub_self]; rfl
  · rw [regAfter_result (exec_subnReg s VF VF), BitVec.sub_self]; rfl
  · rw [regAfter_result (exec_shr s VF VF), State.reg_withFlag, if_pos rfl, flagByte_ushiftRight]
  · rw [regAfter_result (exec_shl s VF VF), State.reg_withFlag, if_pos rfl, flagByte_shiftLeft, shiftedOutLeft]

theorem State.randomByte_of_presented {s : State} {r : Byte} (h : s.rnd = some r) : s.randomByte = r := by
  rw [State.randomByte, h]

/-- Settles O47: the byte under the mask is `randomByte`, which is the presented one where there is one. -/
theorem randomIsAnyByteUnderTheMask : Obligations.RandomIsAnyByteUnderTheMask := by
  intro x kk s
  have hx : (s.takeDraw.setReg x (s.randomByte &&& kk)).reg x = s.randomByte &&& kk := State.reg_setReg_self _ x _
  refine ⟨decode_packXKK_rnd x kk, _, exec_rnd s x kk, fun r hr => ?_, ⟨_, hx⟩, s.takeDraw_rnd,
    s.takeDraw_setReg_frame x _⟩
  rw [hx, State.randomByte_of_presented hr]

/-! ### Index register and memory (42_index_memory.md) -/

/-- Settles O50: the execute stage is one write of `I`, and the sum fits in 16 bits. -/
theorem fontAddressIsFiveTimesTheRegister : Obligations.FontAddressIsFiveTimesTheRegister := by
  intro x s
  obtain ⟨t, hexec, hi, hframe⟩ := exec_setIndex_effect (exec_ldF s x)
  exact ⟨decode_packXKK_ldF x, t, hexec, by rw [hi, glyphAddr_toNat], hframe⟩

/-- Settles O51: the bytes after the store are those of `byteAfter`, each digit a number below 256. -/
theorem decimalDigitsAreStored : Obligations.DecimalDigitsAreStored := by
  intro x s
  refine ⟨decode_packXKK_ldB x, fun hin => ?stored, fun hout => ?outside⟩
  case stored =>
    have hlt := (s.reg x).isLt
    refine ⟨_, exec_ldB_inside x hin, ?_, ?_, ?_, storeDigits_frame s x⟩ <;>
      rw [State.setMem_mem, storeDigits_read, byteAfter]
    · rw [if_pos rfl, BitVec.toNat_ofNat, Nat.mod_eq_of_lt (by omega)]
    · rw [if_neg (by omega), if_pos rfl, BitVec.toNat_ofNat, Nat.mod_eq_of_lt (by omega)]
    · rw [if_neg (by omega), if_neg (by omega), if_pos rfl, BitVec.toNat_ofNat, Nat.mod_eq_of_lt (by omega)]
  case outside => exact exec_fault_effect (if_pos hout)

/-- Settles O52: by what the register loop leaves at each address. -/
theorem registersAreStored : Obligations.RegistersAreStored := by
  intro x s
  refine ⟨decode_packXKK_ldMemVx x, fun hin => ?stored, fun hout => ?outside⟩
  case stored =>
    refine ⟨_, exec_ldMemVx_inside x hin, fun k hk => ?_, storeRegs_frame s x⟩
    have hle : k.val ≤ x.val := hk
    rw [State.setMem_mem, storeRegs_read, if_pos (by omega), Nat.add_sub_cancel_left, Fin.ofNat_val_eq_self]
  case outside => exact exec_fault_effect (if_pos hout)

/-- Settles O53: by what the register loop leaves in each register. -/
theorem registersAreLoaded : Obligations.RegistersAreLoaded := by
  intro x s
  refine ⟨decode_packXKK_ldVxMem x, fun hin => ?loaded, fun hout => ?outside⟩
  case loaded =>
    refine ⟨_, exec_ldVxMem_inside x hin, fun k hk => ?_, loadRegs_frame s x⟩
    rw [loadRegs_reg s _ (by omega), if_pos (Nat.lt_succ_of_le hk)]
  case outside => exact exec_fault_effect (if_pos hout)

/-! ### Display (43_display.md) -/

/-- Settles O54: the execute stage replaces the display by the cleared one. -/
theorem clearScreenClearsEveryPixel : Obligations.ClearScreenClearsEveryPixel :=
  ⟨fun a b => decode_packNibbles_cls a b, fun s => ⟨_, exec_cls s, pixel_clearDisplay, s.setDisplay_frame _⟩⟩

section
variable (s : State) (x y : Reg) (n : RowCount)

theorem flagByte_eq_one_iff (c : Bool) : flagByte c = 1 ↔ c = true := by cases c <;> decide

theorem sprite_rows_length_le : (s.sprite x y n.val).rows.length ≤ 32 := by
  rw [State.sprite_rows_length]; omega

/-- R191 read pixel by pixel. -/
theorem drawn_pixel (px : Fin 64) (py : Fin 32) :
    pixel (s.drawn x y n).pixels px py = (pixel s.display px py ^^ spritePixel (s.sprite x y n.val) px py) :=
  drawSprite_pixel _ _ (sprite_rows_length_le s x y n) px py

theorem drawn_collision : (s.drawn x y n).collision = true ↔
    ∃ px py, pixel s.display px py = true ∧ spritePixel (s.sprite x y n.val) px py = true :=
  drawSprite_collision _ _ (sprite_rows_length_le s x y n)

variable {s x y n}

/-- What a draw whose sprite lies in memory leaves: the toggled pixels, and in VF whether one of them was set. -/
theorem exec_drw_effect (h : n.val = 0 ∨ s.i.toNat + n.val - 1 ≤ 0xFFF) :
    ∃ t, exec (.drw x y n) s = .next t ∧
      (∀ px py, pixel t.display px py = (pixel s.display px py ^^ spritePixel (s.sprite x y n.val) px py)) ∧
      t.reg VF = flagByte (s.drawn x y n).collision ∧ Frame { regs := [VF], display := true } s t :=
  ⟨_, exec_drw_inside x y h, drawn_pixel s x y n, State.reg_setReg_self _ VF _, s.setDisplay_setReg_frame VF _ _⟩

/-- Two states that agree on what a sprite is made of have the same one. -/
theorem State.sprite_congr {t : State} {regs : List Reg} (hframe : Frame { regs := regs, display := true } s t)
    (hx : t.reg x = s.reg x) (hy : t.reg y = s.reg y) (k : Nat) : t.sprite x y k = s.sprite x y k := by
  have hi : t.i = s.i := hframe.index rfl
  have hread : ∀ a, t.mem.read a = s.mem.read a := fun a => hframe.mem a List.not_mem_nil
  simp only [State.sprite, State.dataBytes, State.dataAddr, hframe.config, hx, hy, hi, hread]

end

/-- Settles O55: the rasterizer toggles the pixels of `spritePixel`, and the collision flag is about the same pixels. -/
theorem drawTogglesTheSpritePixels : Obligations.DrawTogglesTheSpritePixels := by
  intro x y n s sp hsp
  obtain rfl : sp = s.sprite x y n.val := hsp
  refine ⟨decode_packXYN_drw x y n, fun hin => ?drawn, fun hout => ?outside⟩
  case drawn =>
    obtain ⟨t, hexec, hpixels, hflag, hframe⟩ := exec_drw_effect hin
    refine ⟨t, hexec, hpixels, fun hmeets => ?_, fun hmisses => ?_, hframe⟩
    · rw [hflag, flagByte_eq_one_iff, drawn_collision]; exact hmeets
    · rw [← drawn_collision, Bool.not_eq_true] at hmisses
      rw [hflag, hmisses]; rfl
  case outside => exact exec_fault_effect (if_pos ⟨Nat.pos_of_ne_zero hout.1, hout.2⟩)

/-- Settles O56: the second draw has the same sprite, so each pixel is toggled twice, and where the sprite has a bit the
first draw has turned the pixel over. -/
theorem drawingTwiceRestoresTheDisplay : Obligations.DrawingTwiceRestoresTheDisplay := by
  intro x y n s hin
  obtain ⟨t, hexec, hpixels, hflag, hframe⟩ := exec_drw_effect (x := x) (y := y) hin
  refine ⟨t, hexec, ?_, fun hx hy => ?_⟩
  · rw [hflag, flagByte_eq_one_iff, drawn_collision]
    simp only [and_comm]
  · have hsprite : t.sprite x y n.val = s.sprite x y n.val := State.sprite_congr hframe hx hy n.val
    have hin' : n.val = 0 ∨ t.i.toNat + n.val - 1 ≤ 0xFFF := by rwa [hframe.index rfl]
    obtain ⟨u, hexec', hpixels', hflag', -⟩ := exec_drw_effect (x := x) (y := y) hin'
    refine ⟨u, hexec', display_ext fun px py => ?_, ?_⟩
    · rw [hpixels', hpixels, hsprite, Bool.xor_assoc, Bool.xor_self, Bool.xor_false]
    · rw [hflag', flagByte_eq_one_iff, drawn_collision, hsprite]
      refine exists_congr fun px => exists_congr fun py => ?_
      rw [hpixels, and_comm]
      exact and_congr_right fun hbit => by rw [hbit, Bool.xor_true, Bool.not_eq_true']

/-! ### Keypad (44_keypad_timers.md) -/

/-- Settles O57: both execute stages are one `skipIf` on the key's level or its negation, or the fault of R235. -/
theorem skipsOnAKey : Obligations.SkipsOnAKey := by
  intro x a s
  refine ⟨decode_packNibbles_skp x a, decode_packNibbles_sknp x a, fun hin => ⟨?skp, ?sknp⟩, fun hout => ⟨?_, ?_⟩⟩
  case skp => exact ⟨_, exec_skp_of_le hin, s.skipIf_pc _, s.skipIf_frame _⟩
  case sknp =>
    refine ⟨_, exec_sknp_of_le hin, ?_, s.skipIf_frame _⟩
    rw [State.skipIf_pc]
    cases s.key.getLsbD (s.reg x).toNat <;> rfl
  all_goals exact exec_fault_effect (if_pos hout)

end Sys2Proof.Machine
end

section
/-! The Step (30_encoding.md R90): how it ends, by the fault table, and what that says of the fault registers, `pc`, the
timers, the opcode register and the next fetch. -/

namespace Sys2Proof.Machine

/-! ### How a Step ends -/

section
variable {s t : State} {w : Opcode} {i : Instr}

theorem fetches_of_running (hrun : s.faultCause = 0) (hf : fetchWord s = some w) : Fetches s w :=
  ⟨s.halted_eq_false.2 hrun, hf⟩

theorem Fetches.faultCause_eq_zero (hw : Fetches s w) : s.faultCause = 0 := s.halted_eq_false.1 hw.running

/-- A fault of the execute stage puts `pc` back at the instruction (R233). -/
theorem State.advance_raise (s : State) (c : FaultCause) (n : Addr) : s.advance.raise c n = s.enterFault c n s.pc := by
  rw [State.raise, State.advance_pc, BitVec.add_sub_cancel]
  rfl

theorem State.enterFault_halted (s : State) (c : FaultCause) (n a : Addr) : (s.enterFault c n a).halted = true := by
  rw [State.halted_eq_true]
  exact s.code_ne_zero c

/-- A Step whose instruction is in a condition of the fault table takes that fault. -/
theorem step_of_faultOf {c : FaultCause} {n : Addr} (hw : Fetches s w) (hd : decode w = .ok i)
    (h : faultOf i s = some (c, n)) : step s = .next (s.enterFault c n s.pc) := by
  have he : exec i s.advance = .next (s.enterFault c n s.pc) := by
    rw [exec_of_faultOf ((faultOf_advance i s).trans h), State.advance_raise]
  rw [step_instr hw.running hw.word hd he, State.retire_halted (s.enterFault_halted c n s.pc)]

/-- A Step whose instruction is in no condition of the fault table runs it and ends normally. -/
theorem step_of_faultOf_none (hw : Fetches s w) (hd : decode w = .ok i) (h : faultOf i s = none) :
    ∃ u, exec i s.advance = .next u ∧
      step s = .next { u with opreg := w, dt := oneLess u.dt, st := oneLess u.st } := by
  have hadv : faultOf i s.advance = none := (faultOf_advance i s).trans h
  obtain ⟨u, he, -⟩ := exec_of_faultOf_none hadv
  exact ⟨u, he, step_without_fault hw hd he (exec_faultRegs hadv he).1⟩

/-- A Step that fetches an unknown word ends normally after the diagnostic (R99). -/
theorem step_of_error {e : DecodeError} (hw : Fetches s w) (hd : decode w = .error e) :
    step s = .next { s with
      pc := s.pc + 2, opreg := w, dt := oneLess s.dt, st := oneLess s.st, diags := w :: s.diags } := by
  have hrun : (s.advance.emitDiag w).halted = false := hw.running
  rw [step_unknown hw.running hw.word hd, State.retire_running hrun, oneLess_eq, oneLess_eq]
  rfl

/-- The fault a Step of a running core raises, with its information: by its fetch (R62), or by its instruction (R231). -/
def Raises (s : State) (c : FaultCause) (n : Addr) : Prop :=
  (fetchWord s = none ∧ c = .fetchOutOfBounds ∧ n = s.pc) ∨
  ∃ w i, fetchWord s = some w ∧ decode w = .ok i ∧ faultOf i s = some (c, n)

/-- How a Step ends: the core was halted; or the Step raised a fault and was undone; or it ran an instruction in no
condition of the fault table; or it passed an unknown word over. -/
inductive StepEnd (s t : State) : Prop where
  | halted (hhalt : s.faultCause ≠ 0) (e : t = s)
  | faulted (c : FaultCause) (n : Addr) (hrun : s.faultCause = 0) (hraise : Raises s c n)
      (e : t = s.enterFault c n s.pc)
  | executed (w : Opcode) (i : Instr) (u : State) (hw : Fetches s w) (hd : decode w = .ok i)
      (hnone : faultOf i s = none) (he : exec i s.advance = .next u)
      (e : t = { u with opreg := w, dt := oneLess u.dt, st := oneLess u.st })
  | unknown (w : Opcode) (err : DecodeError) (hw : Fetches s w) (hd : decode w = .error err)
      (e : t = { s with
        pc := s.pc + 2, opreg := w, dt := oneLess s.dt, st := oneLess s.st, diags := w :: s.diags })

/-- Every Step answers a next state, and ends in one of the four ways. -/
theorem step_total (s : State) : ∃ t, step s = .next t ∧ StepEnd s t := by
  by_cases hrun : s.faultCause = 0
  · cases hf : fetchWord s with
    | none =>
      exact ⟨_, step_fetch_fault (s.halted_eq_false.2 hrun) hf, .faulted _ _ hrun (.inl ⟨hf, rfl, rfl⟩) rfl⟩
    | some w =>
      have hw : Fetches s w := fetches_of_running hrun hf
      cases hd : decode w with
      | error e => exact ⟨_, step_of_error hw hd, .unknown w e hw hd rfl⟩
      | ok i =>
        cases hi : faultOf i s with
        | some fault => exact ⟨_, step_of_faultOf hw hd hi, .faulted _ _ hrun (.inr ⟨w, i, hf, hd, hi⟩) rfl⟩
        | none =>
          obtain ⟨u, he, hstep⟩ := step_of_faultOf_none hw hd hi
          exact ⟨_, hstep, .executed w i u hw hd hi he rfl⟩
  · exact ⟨s, step_halted (s.halted_eq_true.2 hrun), .halted hrun rfl⟩

theorem step_end (h : step s = .next t) : StepEnd s t := by
  obtain ⟨u, hu, hend⟩ := step_total s
  rw [h] at hu
  cases hu
  exact hend

theorem exec_advance_frame {u : State} (hnone : faultOf i s = none) (he : exec i s.advance = .next u) :
    Frame (writes i s.advance) s.advance u := exec_frame ((faultOf_advance i s).trans hnone) he

theorem exec_advance_faultRegs {u : State} (hnone : faultOf i s = none) (he : exec i s.advance = .next u) :
    u.faultCause = s.faultCause ∧ u.faultPc = s.faultPc ∧ u.faultInfo = s.faultInfo :=
  exec_faultRegs (s := s.advance) ((faultOf_advance i s).trans hnone) he

/-- A Step of a running core that ends with a fault has raised it and was undone. -/
theorem raised_of_step (hrun : s.faultCause = 0) (h : step s = .next t) (ht : t.faultCause ≠ 0) :
    ∃ c n, Raises s c n ∧ t = s.enterFault c n s.pc := by
  cases step_end h with
  | halted hhalt => exact absurd hrun hhalt
  | faulted c n _ hraise e => exact ⟨c, n, hraise, e⟩
  | executed w i u _ _ hnone he e =>
    have hclean : u.faultCause = 0 := (exec_advance_faultRegs hnone he).1.trans hrun
    exact absurd ((congrArg State.faultCause e).trans hclean) ht
  | unknown w err _ _ e => exact absurd ((congrArg State.faultCause e).trans hrun) ht

/-- A Step that ends with a fault, raised now or before, has changed the fault registers at most. -/
theorem eq_of_step_faulted (h : step s = .next t) (ht : t.faultCause ≠ 0) :
    t = { s with faultCause := t.faultCause, faultPc := t.faultPc, faultInfo := t.faultInfo } := by
  by_cases hrun : s.faultCause = 0
  · obtain ⟨c, n, -, rfl⟩ := raised_of_step hrun h ht
    rfl
  · rw [step_halted (s.halted_eq_true.2 hrun)] at h
    cases h
    rfl

/-- A Step that ends without a fault began without one. -/
theorem running_of_step (h : step s = .next t) (ht : t.faultCause = 0) : s.faultCause = 0 := by
  by_contra hhalt
  rw [step_halted (s.halted_eq_true.2 hhalt)] at h
  cases h
  exact hhalt ht

/-- A Step that fetched an instruction and ends without a fault has executed it. -/
theorem executed_of_step (h : step s = .next t) (ht : t.faultCause = 0) (hf : fetchWord s = some w)
    (hd : decode w = .ok i) : faultOf i s = none ∧ ∃ u, exec i s.advance = .next u ∧
      t = { u with opreg := w, dt := oneLess u.dt, st := oneLess u.st } := by
  have hw : Fetches s w := fetches_of_running (running_of_step h ht) hf
  cases hi : faultOf i s with
  | some fault =>
    rw [step_of_faultOf hw hd hi] at h
    cases h
    exact absurd ht (s.code_ne_zero _)
  | none =>
    obtain ⟨u, he, hstep⟩ := step_of_faultOf_none hw hd hi
    exact ⟨rfl, u, he, Host.Outcome.next.inj (h.symm.trans hstep)⟩

end

/-! ### The obligations about one Step -/

/-- Settles O6: the stages around any answer of the execute stage; a fault skips the last two. -/
theorem stepRunsTheDecodedInstruction : Obligations.StepRunsTheDecodedInstruction := by
  intro s i hrun hpc hd t he
  have hw : Fetches s _ := fetches_of_running hrun (fetchWord_some hpc)
  refine ⟨fun ht => step_without_fault hw hd he (ht.trans hrun.symm), fun ht => ?_⟩
  rw [step_instr hw.running hw.word hd he, State.retire_halted (t.halted_eq_true.2 ht)]

/-- Settles O7: `pc` is brought within the fetchable addresses, and the two writes there are the two bytes read. -/
theorem withFetchWordIsFetchedNext : Obligations.WithFetchWordIsFetchedNext := by
  intro s w
  refine ⟨⟨rfl, ?fetch⟩, fun i => ?decodes⟩
  case fetch =>
    have hpc : (s.withFetchWord 16 w.toNat).pc.toNat ≤ 0xFFE := by
      simp only [State.withFetchWord]
      split
      · decide
      · omega
    rw [fetchWord_some hpc]
    simp only [State.withFetchWord, tableWord_toNat]
    rw [Memory.read_write_ne _ _ (by omega), Memory.read_write_self, Memory.read_write_self, wordOfBytes_split]
  case decodes =>
    rw [decodeTableWord, tableWord_toNat, decodeBytes, wordOfBytes_split]
    cases decode w <;> simp

/-- Settles O8: the execute stage of an unknown word is its diagnostic. -/
theorem unknownOpcodeIsADiagnosedNoOp : Obligations.UnknownOpcodeIsADiagnosedNoOp :=
  fun _ _ hw hd => step_of_error hw hd

/-- Settles O9: a halted core leaves before the fetch, and presenting inputs does not set it running. -/
theorem haltedStepChangesNothing : Obligations.HaltedStepChangesNothing := by
  intro s hhalt
  have hhalted : s.halted = true := s.halted_eq_true.2 hhalt
  exact ⟨step_halted hhalted, fun key rnd => step_halted (s := s.present key rnd) hhalted⟩

/-- Settles O10: the two clauses are the two branches of the fetch. -/
theorem fetchIsBigEndianAndBounded : Obligations.FetchIsBigEndianAndBounded := by
  intro s
  refine ⟨fun hpc => ⟨_, fetchWord_some hpc, wordOfBytes_toNat _ _⟩, fun hpc => ⟨fetchWord_none hpc, fun hrun => ?_⟩⟩
  exact step_fetch_fault (s.halted_eq_false.2 hrun) (fetchWord_none hpc)

/-- Settles O11: every execute stage answers a next state. -/
theorem everyStateHasASuccessor : Obligations.EveryStateHasASuccessor := by
  intro s
  obtain ⟨t, h, -⟩ := step_total s
  exact ⟨t, h⟩

/-- Settles O12: a fault is an `enterFault` of the state before the Step, and leaves the core halted. -/
theorem faultsArePreciseAndHaltTheCore : Obligations.FaultsArePreciseAndHaltTheCore := by
  intro s t hrun h ht
  refine ⟨?_, (haltedStepChangesNothing t ht).2⟩
  obtain ⟨c, n, -, rfl⟩ := raised_of_step hrun h ht
  rfl

/-- Settles O13: the defaults evaluated, the fetch, then the fault table for the fetched instruction. -/
theorem faultsAreRaisedByTheTable : Obligations.FaultsAreRaisedByTheTable := by
  refine ⟨fun s hs => ?codes, fun s hrun => ⟨fun hpc => ?fetch, ?raised, ?clean, ?unknown⟩⟩
  case codes =>
    simp only [State.code, hs]
    decide
  case fetch => exact (fetchIsBigEndianAndBounded s).2 hpc |>.2 hrun
  case raised =>
    intro w i c n hf hd hi
    exact step_of_faultOf (fetches_of_running hrun hf) hd hi
  case clean =>
    intro w i hf hd hi
    obtain ⟨u, he, hstep⟩ := step_of_faultOf_none (fetches_of_running hrun hf) hd hi
    obtain ⟨hcause, hfpc, hfinfo⟩ := exec_advance_faultRegs hi he
    exact ⟨_, hstep, hcause.trans hrun, hfpc, hfinfo⟩
  case unknown =>
    intro w e hf hd
    exact ⟨_, step_of_error (fetches_of_running hrun hf) hd, hrun, rfl, rfl⟩

/-- Settles O14: a fault undoes the advance; otherwise `pc` is what the execute stage left, by the table of R24. -/
theorem programCounterAfterEachStep : Obligations.ProgramCounterAfterEachStep := by
  intro s t hrun h
  refine ⟨fun ht => ?faulted, fun w i ht hf hd => ?executed, fun w e hf hd => ?unknown, fun w nnn ht hf hd => ?pushed⟩
  case faulted => rw [eq_of_step_faulted h ht]
  case executed =>
    obtain ⟨hnone, u, he, rfl⟩ := executed_of_step h ht hf hd
    have hpc : u.pc = pcAfter i s := exec_pc hnone he
    exact hpc
  case unknown =>
    rw [step_of_error (fetches_of_running hrun hf) hd] at h
    cases h
    rfl
  case pushed =>
    obtain ⟨hnone, u, he, rfl⟩ := executed_of_step h ht hf hd
    have hlt : s.advance.sp.val < 16 := sp_lt_of_faultOf_call (s := s) hnone
    rw [eq_of_exec he (exec_call_of_lt s.advance nnn hlt)]
    exact Vector.getElem?_set_self hlt

/-- Settles O15: the tick acts on what the execute stage left in the timers, and only FX15 and FX18 write them there. -/
theorem timersTickOncePerStep : Obligations.TimersTickOncePerStep := by
  intro s t h
  refine ⟨fun ht => ?faulted, fun w ht hf => ?ticked⟩
  case faulted =>
    rw [eq_of_step_faulted h ht]
    exact ⟨rfl, rfl⟩
  case ticked =>
    cases hd : decode w with
    | error e =>
      rw [step_of_error (fetches_of_running (running_of_step h ht) hf) hd] at h
      cases h
      exact ⟨rfl, rfl⟩
    | ok i =>
      obtain ⟨hnone, u, he, rfl⟩ := executed_of_step h ht hf hd
      have hframe := exec_advance_frame hnone he
      cases i
      case ldDtVx x =>
        rw [eq_of_exec he (exec_ldDtVx s.advance x)]
        exact ⟨rfl, rfl⟩
      case ldStVx x =>
        rw [eq_of_exec he (exec_ldStVx s.advance x)]
        exact ⟨rfl, rfl⟩
      all_goals exact ⟨congrArg oneLess (hframe.delay rfl), congrArg oneLess (hframe.sound rfl)⟩

/-- Settles O16: the fetched word is written at the end of a Step that ends normally. -/
theorem opcodeRegisterHoldsTheFetchedWord : Obligations.OpcodeRegisterHoldsTheFetchedWord := by
  intro s t h
  refine ⟨fun ht => by rw [eq_of_step_faulted h ht], fun w ht hf => ?_⟩
  cases hd : decode w with
  | error e =>
    rw [step_of_error (fetches_of_running (running_of_step h ht) hf) hd] at h
    cases h
    rfl
  | ok i =>
    obtain ⟨-, u, -, rfl⟩ := executed_of_step h ht hf hd
    rfl

/-! ### The obligations about two Steps -/

/-- Settles O25: the next fetch reads memory as the execute stage left it. -/
theorem storedRegistersAreFetchedNext : Obligations.StoredRegistersAreFetchedNext := by
  intro s t w i hw hd h ht hpc
  obtain ⟨hnone, u, he, rfl⟩ := executed_of_step h ht hw.word hd
  have hread : ∀ a, u.mem.read a = byteAfter i s a := fun a =>
    (exec_read ((faultOf_advance i s).trans hnone) he a).trans (byteAfter_advance i s a)
  rw [fetchWord_some hpc, hread, hread]

/-- Settles O26: the return pops the entry at the old `sp`, which is the one the call pushed. -/
theorem returnComesBackAfterTheCall : Obligations.ReturnComesBackAfterTheCall := by
  intro s t w w' nnn hw hd hsp h hw' hd'
  have hcall := exec_call_of_lt s.advance nnn hsp
  have ht := Host.Outcome.next.inj (h.symm.trans (step_without_fault hw hd hcall rfl))
  have hstack : t.stack = s.stack.set s.sp.val (s.pc + 2) hsp := by rw [ht]; rfl
  have hspt : t.sp.val = s.sp.val + 1 := by rw [ht]; rfl
  have hpos : 0 < t.advance.sp.val := by rw [State.advance_sp]; omega
  have hret := exec_ret_of_pos t.advance hpos
  have htop : t.advance.top hpos = s.pc + 2 := by
    simp only [State.top, State.advance_stack, State.advance_sp, hstack, hspt, Nat.add_sub_cancel,
      Vector.getElem_set_self]
  refine ⟨_, step_without_fault hw' hd' hret rfl, htop, ?sp, ?entry, fun k hk => ?live⟩
  case sp => exact Fin.ext (by rw [State.setPc_sp, State.drop_sp, State.advance_sp, hspt, Nat.add_sub_cancel])
  case entry =>
    show t.stack[s.sp.val]? = _
    rw [hstack, Vector.getElem?_set_self]
  case live =>
    show t.stack[k.val] = s.stack[k.val]
    simp only [hstack, Vector.getElem_set_ne _ _ (Nat.ne_of_gt hk)]

/-- Settles O27: the jump to its own address leaves `pc`, so the same word is fetched again. -/
theorem endedRunStaysEnded : Obligations.EndedRunStaysEnded := by
  intro a s hend
  obtain ⟨hbound, hpc, hrun, hword⟩ := hend
  have htarget : zextNnn (BitVec.ofNat 12 a) = s.pc := by
    apply BitVec.eq_of_toNat_eq
    rw [zextNnn_toNat, BitVec.toNat_ofNat, hpc, Nat.mod_eq_of_lt (by omega)]
  have he : exec (.jp (BitVec.ofNat 12 a)) s.advance = .next s := by
    rw [exec_jp, htarget]
    rfl
  exact ⟨step_without_fault (fetches_of_running hrun hword) (decode_packNNN_jp _) he rfl, hbound, hpc, hrun, hword⟩

end Sys2Proof.Machine
end

section
/-! Memory's canonical form, the host's operations PowerOn, Reset and Load (70_reset_and_hazards.md), and the invariant of
the core, which every Step and every operation keeps. -/

namespace Sys2Proof.Machine

/-! ### Memory -/

theorem Memory.nodup_of_rising {m : Memory} (h : m.Pairwise fun c d => c.1 < d.1) : m.Nodup :=
  h.imp fun hlt e => Nat.ne_of_lt hlt (congrArg Prod.fst e)

/-- Memories in canonical form that read alike hold the same cells, in the same rising order. -/
theorem Memory.eq_of_read {m n : Memory} (hm : m.wf = true) (hn : n.wf = true) (h : ∀ a, m.read a = n.read a) :
    m = n := by
  have hmem : ∀ c, c ∈ m ↔ c ∈ n := fun (a, b) => by rw [m.mem_iff_read hm, n.mem_iff_read hn, h]
  obtain ⟨hmr, -⟩ := m.wf_iff.1 hm
  obtain ⟨hnr, -⟩ := n.wf_iff.1 hn
  have hperm : m.Perm n := (List.perm_ext_iff_of_nodup (nodup_of_rising hmr) (nodup_of_rising hnr)).2 hmem
  exact hperm.eq_of_pairwise (fun c d _ _ hcd hdc => absurd hdc (Nat.lt_asymm hcd)) hmr hnr

/-- Settles O24: the law of a read after a write, the canonical form of a write, and extensionality in that form. -/
theorem memoryIsReadAfterWriteAndCanonical : Obligations.MemoryIsReadAfterWriteAndCanonical :=
  ⟨Memory.read_write, fun m a b hm ha => m.wf_write a b hm (Nat.lt_succ_of_le ha),
    fun _ _ hm hn h => Memory.eq_of_read hm hn h⟩

/-! ### PowerOn, Reset, Load -/

section
variable (s : State)

theorem State.resetCore_reg (r : Reg) : s.resetCore.reg r = 0 := Vector.getElem_replicate r.isLt

theorem State.resetCore_stack (k : Fin 16) : s.resetCore.stack[k] = 0 := Vector.getElem_replicate k.isLt

theorem State.resetCore_pixel (px : Fin 64) (py : Fin 32) : pixel s.resetCore.display px py = false :=
  pixel_clearDisplay px py

theorem State.resetCore_read_program {a : Nat} (h : 0x200 ≤ a) : s.resetCore.mem.read a = 0 := by
  rw [State.resetCore_read, if_neg (by omega)]

/-- PowerOn is the Reset of a core whose memory has been written (R270). -/
theorem State.powerOn_eq_resetCore : ∃ u : State, s.powerOn = u.resetCore ∧ u.config = s.config :=
  ⟨_, rfl, s.setMem_config _⟩

theorem State.reset_read (a : Nat) : State.reset.mem.read a = Config.defaults.initialByte a := rfl

/-- Under the defaults PowerOn lists no byte. -/
theorem State.reset_powerOn : State.reset.powerOn = State.reset := by
  have hmem : State.reset.powerOn.mem = [] :=
    Memory.eq_of_read (State.powerOn_wf _) rfl fun a => State.reset.powerOn_read a
  rw [State.powerOn_rest, hmem]
  rfl

end

/-- The default font as the list the spec gives. -/
theorem defaults_fontRom {k : Nat} (h : k < 80) : Config.defaults.fontRom[k] = Config.fontRom.getD k 0 := by
  have hlen : k < Config.fontRom.length := h
  rw [List.getD_eq_getElem _ _ hlen]
  rfl

/-- Settles O28: PowerOn is a Reset, so the values are those of Reset; memory is read address by address. -/
theorem stateAfterPowerOnAndReset : Obligations.StateAfterPowerOnAndReset := by
  refine ⟨fun s t ht => ?values, fun s => ⟨fun k => ?font, fun a ha => ?reserved⟩, fun s a ha => ?kept,
    State.reset_powerOn, rfl, rfl, rfl, fun k hk => ?defaultFont, fun a ha => ?defaultReserved⟩
  case values =>
    obtain ⟨u, rfl, hconfig⟩ : ∃ u : State, t = u.resetCore ∧ u.config = s.config := by
      rcases ht with rfl | rfl
      · exact s.powerOn_eq_resetCore
      · exact ⟨s, rfl, rfl⟩
    refine ⟨u.resetCore_reg, ?_, rfl, rfl, u.resetCore_stack, rfl, rfl, rfl, u.resetCore_pixel, rfl, rfl, rfl,
      fun a => u.resetCore_read_program⟩
    rw [State.resetCore_pc, hconfig]
  case font =>
    rw [State.powerOn_read, initialByte_font _ k.isLt]
    rfl
  case reserved => rw [State.powerOn_read, initialByte_reserved _ ha]
  case kept => rw [State.resetCore_read, if_pos ha]
  case defaultFont => rw [State.reset_read, initialByte_font _ hk, defaults_fontRom hk]
  case defaultReserved =>
    rw [State.reset_read, initialByte_reserved _ ha]
    rfl

/-- Settles O29: the size decides; the image is one row of bytes written into a reset core. -/
theorem loadPlacesTheImageOrChangesNothing : Obligations.LoadPlacesTheImageOrChangesNothing := by
  intro rom s
  refine ⟨fun hlong => by rw [load_eq, if_pos hlong], fun hfits => ?_⟩
  have hload := load_eq s rom
  rw [if_neg (by omega)] at hload
  have hread := Memory.read_writeBytes s.resetCore.mem 0x200 rom
  refine ⟨_, hload, fun k hk => ?image, fun a ha => ?zeroes, fun a ha => ?low, rfl⟩
  case image =>
    rw [State.setMem_mem, hread, dif_pos (by omega)]
    simp only [Nat.add_sub_cancel_left]
  case zeroes => rw [State.setMem_mem, hread, dif_neg (by omega), s.resetCore_read_program (by omega)]
  case low => rw [State.setMem_mem, hread, dif_neg (by omega), State.resetCore_read, if_pos ha]

/-! ### The invariant after PowerOn, Reset and Load -/

section
variable {s : State}

theorem coreInv_resetCore (h : s.mem.wf = true) : CoreInv s.resetCore where
  memory := s.resetCore_wf h
  pcBound := le_max_right _ _
  stackBound := fun k => by rw [State.resetCore_stack]; decide
  running := fun _ => ⟨rfl, rfl⟩
  halted := fun hne => absurd rfl hne

theorem coreInv_powerOn (s : State) : CoreInv s.powerOn := by
  have hwf := powerOnMemory_wf s.config
  rw [State.powerOn]
  generalize powerOnMemory s.config = m at hwf
  exact coreInv_resetCore (s := s.setMem m) hwf

/-- A write of memory that keeps the canonical form keeps the invariant: nothing else of it is about memory. -/
theorem CoreInv.setMem (h : CoreInv s) {m : Memory} (hm : m.wf = true) : CoreInv (s.setMem m) :=
  ⟨hm, h.pcBound, h.stackBound, h.running, fun hne => by
    obtain ⟨c, hc⟩ := h.halted hne
    exact ⟨c, by cases c <;> exact hc⟩⟩

theorem CoreInv.present (h : CoreInv s) (key : BitVec 16) (rnd : Byte) : CoreInv (s.present key rnd) :=
  ⟨h.memory, h.pcBound, h.stackBound, h.running, fun hne => by
    obtain ⟨c, hc⟩ := h.halted hne
    exact ⟨c, by cases c <;> exact hc⟩⟩

theorem coreInv_load (h : CoreInv s) (rom : List Byte) : CoreInv (load rom s).2 := by
  rw [load_eq]
  split
  · exact h
  · exact (coreInv_resetCore h.memory).setMem
      (Memory.wf_writeBytes _ _ _ (s.resetCore_wf h.memory) (by omega))

end

/-- Settles O17: PowerOn is a Reset, and the state after PowerOn is its own Reset. -/
theorem invariantAfterPowerOn : Obligations.InvariantAfterPowerOn :=
  ⟨coreInv_resetCore (s := State.reset) rfl, coreInv_powerOn⟩

/-! ### The invariant after a Step -/

section
variable {s u : State} {i : Instr}

theorem maxIndex_toNat (s : State) : (maxIndex s).toNat = max s.i.toNat 0x1000 := by
  rw [maxIndex, BitVec.toNat_ofNat, Nat.mod_eq_of_lt (by omega)]

/-- A fault of the table leaves the record the table describes. -/
theorem faultRecord_of_faultOf {c : FaultCause} {n : Addr} (h : faultOf i s = some (c, n)) :
    faultRecord c (s.enterFault c n s.pc) := by
  have hkey : ∀ x : Reg, (s.reg x).toNat > 15 →
      15 < (BitVec.ofNat 16 (s.reg x).toNat).toNat ∧ (BitVec.ofNat 16 (s.reg x).toNat).toNat ≤ 255 := by
    intro x hx
    rw [BitVec.toNat_ofNat, Nat.mod_eq_of_lt (by omega)]
    omega
  cases i <;>
    simp only [faultOf, reduceCtorEq, Option.ite_none_right_eq_some, Option.some.injEq, Prod.mk.injEq] at h <;>
    obtain ⟨hc, rfl, rfl⟩ := h
  case ret => exact ⟨rfl, rfl, rfl, hc⟩
  case call nnn => exact ⟨rfl, rfl, rfl, hc⟩
  case drw x y n => exact ⟨rfl, rfl, maxIndex_toNat s⟩
  case skp x => exact ⟨rfl, rfl, hkey x hc⟩
  case sknp x => exact ⟨rfl, rfl, hkey x hc⟩
  case ldB x => exact ⟨rfl, rfl, maxIndex_toNat s⟩
  case ldMemVx x => exact ⟨rfl, rfl, maxIndex_toNat s⟩
  case ldVxMem x => exact ⟨rfl, rfl, maxIndex_toNat s⟩

theorem pc_of_fetchWord_none (h : fetchWord s = none) : s.pc.toNat > 0xFFE := by
  by_contra hle
  rw [fetchWord_some (by omega)] at h
  cases h

/-- Every fault a Step raises leaves its record. -/
theorem faultRecord_of_raises {c : FaultCause} {n : Addr} (h : Raises s c n) :
    faultRecord c (s.enterFault c n s.pc) := by
  obtain ⟨hf, rfl, rfl⟩ | ⟨w, i, -, -, hi⟩ := h
  · exact ⟨rfl, rfl, rfl, pc_of_fetchWord_none hf⟩
  · exact faultRecord_of_faultOf hi

theorem skipTarget_toNat_le {a : Addr} (h : a.toNat ≤ 0xFFE) (p : Prop) [Decidable p] :
    (skipTarget a p).toNat ≤ 0x1002 := by
  have h4 : (a + 4).toNat = a.toNat + 4 := by bv_omega
  have h2 : (a + 2).toNat = a.toNat + 2 := by bv_omega
  unfold skipTarget
  split <;> omega

/-- The bounds of 10_state.md R25 (d): an address of 12 bits and a byte, a skip from 0xFFE, a stack entry. -/
theorem pcAfter_toNat_le (hpc : s.pc.toNat ≤ 0xFFE) (hstack : ∀ k : Fin 16, (s.stack[k]).toNat ≤ 0x1000) (i : Instr) :
    (pcAfter i s).toNat ≤ 0x10FE := by
  have hnext : (s.pc + 2).toNat ≤ 0x10FE := by bv_omega
  cases i <;> simp only [pcAfter]
  case ret =>
    split
    next hpos => exact (hstack ⟨s.sp.val - 1, by omega⟩).trans (by omega)
    next => omega
  case jp nnn => rw [BitVec.toNat_ofNat]; omega
  case call nnn => rw [BitVec.toNat_ofNat]; omega
  case jpV0 nnn => rw [BitVec.toNat_ofNat]; omega
  case ldVxK x => split <;> omega
  case seImm | sneImm | seReg | sneReg | skp | sknp => exact (skipTarget_toNat_le hpc _).trans (by omega)
  all_goals exact hnext

/-- An executed instruction changes no stack entry but the one a call pushes, which is the address after it. -/
theorem exec_advance_stack (hnone : faultOf i s = none) (he : exec i s.advance = .next u) (k : Fin 16) :
    u.stack[k] = s.stack[k] ∨ u.stack[k] = s.pc + 2 := by
  have hframe := exec_advance_frame hnone he
  cases i
  case call nnn =>
    have hlt : s.advance.sp.val < 16 := sp_lt_of_faultOf_call (s := s) hnone
    rw [eq_of_exec he (exec_call_of_lt s.advance nnn hlt), State.setPc_stack, State.push_stack, Fin.getElem_fin,
      Vector.getElem_set]
    split
    · exact .inr rfl
    · exact .inl rfl
  all_goals exact .inl (hframe.stack k List.not_mem_nil)

end

/-- Settles O18: by the four ways a Step ends. -/
theorem stepKeepsTheInvariant : Obligations.StepKeepsTheInvariant := by
  intro s t hinv h
  have hnext : ∀ {w}, Fetches s w → (s.pc + 2).toNat ≤ 0x1000 := fun hw => by
    have := pc_of_fetchWord hw.word
    bv_omega
  cases step_end h with
  | halted _ e => exact e ▸ hinv
  | faulted c n hrun hraise e =>
    subst e
    exact ⟨hinv.memory, hinv.pcBound, hinv.stackBound, fun h0 => absurd h0 (s.code_ne_zero c),
      fun _ => ⟨c, faultRecord_of_raises hraise⟩⟩
  | executed w i u hw hd hnone he e =>
    obtain ⟨hcause, hfpc, hfinfo⟩ := exec_advance_faultRegs hnone he
    have hrun : u.faultCause = 0 := hcause.trans hw.faultCause_eq_zero
    obtain ⟨hfpc0, hfinfo0⟩ := hinv.running hw.faultCause_eq_zero
    have hwf : u.mem.wf = true := exec_wf ((faultOf_advance i s).trans hnone) he hinv.memory
    have hpc : u.pc.toNat ≤ 0x10FE :=
      exec_pc hnone he ▸ pcAfter_toNat_le (pc_of_fetchWord hw.word) hinv.stackBound i
    have hstack : ∀ k : Fin 16, (u.stack[k]).toNat ≤ 0x1000 := fun k => by
      rcases exec_advance_stack hnone he k with hk | hk <;> rw [hk]
      · exact hinv.stackBound k
      · exact hnext hw
    subst e
    exact ⟨hwf, hpc.trans (le_max_left _ _), hstack,
      fun _ => ⟨hfpc.trans hfpc0, hfinfo.trans hfinfo0⟩, fun hne => absurd hrun hne⟩
  | unknown w err hw hd e =>
    subst e
    exact ⟨hinv.memory, (hnext hw).trans (by simp), hinv.stackBound, fun _ => hinv.running hw.faultCause_eq_zero,
      fun hne => absurd hw.faultCause_eq_zero hne⟩

/-- Settles O19: by the operation; a Step presents its inputs first, of which the invariant says nothing. -/
theorem hostOperationsKeepTheInvariant : Obligations.HostOperationsKeepTheInvariant := by
  intro op s t hinv h
  cases op with
  | powerOn => cases h; exact coreInv_powerOn s
  | reset => cases h; exact coreInv_resetCore hinv.memory
  | load rom => cases h; exact coreInv_load hinv rom
  | step key rnd => exact stepKeepsTheInvariant _ t (hinv.present key rnd) h

/-! ### The parameters (00_scope.md R7) -/

theorem step_config {s t : State} (h : step s = .next t) : t.config = s.config := by
  cases step_end h with
  | halted _ e => rw [e]
  | faulted c n _ _ e => rw [e]; rfl
  | executed w i u hw hd hnone he e => rw [e]; exact (exec_advance_frame hnone he).config
  | unknown w err hw hd e => rw [e]

theorem load_config (rom : List Byte) (s : State) : (load rom s).2.config = s.config := by
  rw [load_eq]
  split <;> rfl

/-- Settles O30: no operation writes the parameters, and `SP_WIDTH` bits hold every value of the stack pointer. -/
theorem parametersAreFixed : Obligations.ParametersAreFixed := by
  refine ⟨fun op s t h => ?_, fun s => ⟨s.spBits_toNat, s.spBits_toNat⟩⟩
  cases op with
  | powerOn => cases h; exact s.powerOn_config
  | reset => cases h; rfl
  | load rom => cases h; exact load_config rom s
  | step key rnd => exact step_config (s := s.present key rnd) h

end Sys2Proof.Machine
end

section
/-! What a Step does not read: the random input, the keypad, the parameters, the stale stack entries. Each is a relation
between two states that differ in that piece of state alone; that a Step keeps such a relation is proved once, for every
relation that the writes of an execute stage keep. -/

namespace Sys2Proof.Machine

/-! ### Relations that the writes of an execute stage keep -/

/-- The pieces of state that two related states have in common and that any instruction may read or write. -/
structure Shared where
  /-- `V[0..15]` -/
  v : Vector Byte 16
  /-- program counter -/
  pc : Addr
  /-- index register -/
  i : Addr
  /-- `current_opcode` -/
  opreg : Opcode
  /-- delay timer -/
  dt : Byte
  /-- sound timer -/
  st : Byte
  /-- the bytes of memory -/
  mem : Memory
  /-- the pixels -/
  display : Display
  /-- `fault_cause` -/
  faultCause : BitVec 3
  /-- `fault_pc` -/
  faultPc : Addr
  /-- `fault_info` -/
  faultInfo : Addr
  /-- the diagnostics -/
  diags : List Opcode

/-- The shared pieces of a state. -/
def State.shared (s : State) : Shared where
  v := s.v
  pc := s.pc
  i := s.i
  opreg := s.opreg
  dt := s.dt
  st := s.st
  mem := s.mem
  display := s.display
  faultCause := s.faultCause
  faultPc := s.faultPc
  faultInfo := s.faultInfo
  diags := s.diags

/-- The state with other shared pieces. -/
def State.withShared (s : State) (c : Shared) : State :=
  { s with
    v := c.v, pc := c.pc, i := c.i, opreg := c.opreg, dt := c.dt, st := c.st, mem := c.mem, display := c.display
    faultCause := c.faultCause, faultPc := c.faultPc, faultInfo := c.faultInfo, diags := c.diags }

/-- Related states share what every instruction reads, and a write on both sides keeps them related. What only some
instructions read, the keypad and the random input, need be the same only for the instructions of `ok`. -/
structure Simulates (ok : Instr → Prop) (R : State → State → Prop) : Prop where
  shared : ∀ {s t}, R s t → t.shared = s.shared
  withShared : ∀ {s t}, R s t → ∀ c, R (s.withShared c) (t.withShared c)
  code : ∀ {s t}, R s t → ∀ c, t.code c = s.code c
  spriteOrder : ∀ {s t}, R s t → t.config.spriteMsbFirst = s.config.spriteMsbFirst
  sp : ∀ {s t}, R s t → t.sp = s.sp
  top : ∀ {s t}, R s t → ∀ (h : 0 < s.sp.val) (h' : 0 < t.sp.val), t.top h' = s.top h
  push : ∀ {s t}, R s t → ∀ a (h : s.sp.val < 16) (h' : t.sp.val < 16), R (s.push a h) (t.push a h')
  drop : ∀ {s t}, R s t → R s.drop t.drop
  key : ∀ {x}, ok (.skp x) ∨ ok (.sknp x) ∨ ok (.ldVxK x) → ∀ {s t}, R s t → t.key = s.key
  draw : ∀ {x kk}, ok (.rnd x kk) → ∀ {s t}, R s t → t.randomByte = s.randomByte ∧ R s.takeDraw t.takeDraw

namespace Simulates

section
variable {ok : Instr → Prop} {R : State → State → Prop} {s t : State} (hsim : Simulates ok R) (hR : R s t)
include hsim hR

/-! ### What related states read alike -/

theorem pc : t.pc = s.pc := congrArg Shared.pc (hsim.shared hR)
theorem index : t.i = s.i := congrArg Shared.i (hsim.shared hR)
theorem mem : t.mem = s.mem := congrArg Shared.mem (hsim.shared hR)
theorem delay : t.dt = s.dt := congrArg Shared.dt (hsim.shared hR)
theorem display : t.display = s.display := congrArg Shared.display (hsim.shared hR)
theorem reg (r : Reg) : t.reg r = s.reg r := s.reg_congr (congrArg Shared.v (hsim.shared hR)) r

theorem halted : t.halted = s.halted := by
  have hcause : t.faultCause = s.faultCause := congrArg Shared.faultCause (hsim.shared hR)
  rw [State.halted, State.halted, hcause]

theorem fetchWord : fetchWord t = fetchWord s := fetchWord_congr (hsim.pc hR) (hsim.mem hR)

theorem faultOf (i : Instr) : faultOf i t = faultOf i s := by
  cases i <;> simp only [Machine.faultOf, maxIndex, hsim.reg hR, hsim.index hR, hsim.sp hR]

theorem dataAddr (k : Nat) : t.dataAddr k = s.dataAddr k := by rw [State.dataAddr, State.dataAddr, hsim.index hR]

theorem storeDigits (x : Reg) : t.storeDigits x = s.storeDigits x := by
  rw [State.storeDigits, State.storeDigits, hsim.mem hR, hsim.dataAddr hR, hsim.reg hR]

theorem storeRegs (n : Nat) : storeRegs t n = storeRegs s n := by
  induction n with
  | zero => exact hsim.mem hR
  | succ n ih => rw [Machine.storeRegs, Machine.storeRegs, ih, hsim.dataAddr hR, hsim.reg hR]

theorem drawn (x y : Reg) (n : RowCount) : t.drawn x y n = s.drawn x y n := by
  simp only [State.drawn, State.sprite, State.dataBytes, hsim.spriteOrder hR, hsim.reg hR, hsim.mem hR,
    hsim.dataAddr hR, hsim.display hR]

/-! ### Writes that keep the relation -/

/-- Any write of shared pieces from shared pieces. -/
theorem update (g : Shared → Shared) : R (s.withShared (g s.shared)) (t.withShared (g t.shared)) := by
  rw [hsim.shared hR]
  exact hsim.withShared hR _

theorem setReg (x : Reg) {b b' : Byte} (hb : b' = b) : R (s.setReg x b) (t.setReg x b') :=
  hb ▸ hsim.update hR fun c => { c with v := c.v.set x b' }

theorem setPc {a a' : Addr} (ha : a' = a) : R (s.setPc a) (t.setPc a') :=
  ha ▸ hsim.update hR fun c => { c with pc := a' }

theorem setIndex {a a' : Addr} (ha : a' = a) : R (s.setIndex a) (t.setIndex a') :=
  ha ▸ hsim.update hR fun c => { c with i := a' }

theorem setDelay {b b' : Byte} (hb : b' = b) : R (s.setDelay b) (t.setDelay b') :=
  hb ▸ hsim.update hR fun c => { c with dt := b' }

theorem setSound {b b' : Byte} (hb : b' = b) : R (s.setSound b) (t.setSound b') :=
  hb ▸ hsim.update hR fun c => { c with st := b' }

theorem setMem {m m' : Memory} (hm : m' = m) : R (s.setMem m) (t.setMem m') :=
  hm ▸ hsim.update hR fun c => { c with mem := m' }

theorem setDisplay {d d' : Display} (hd : d' = d) : R (s.setDisplay d) (t.setDisplay d') :=
  hd ▸ hsim.update hR fun c => { c with display := d' }

theorem advance : R s.advance t.advance := hsim.update hR fun c => { c with pc := c.pc + 2 }

theorem emitDiag (w : Opcode) : R (s.emitDiag w) (t.emitDiag w) :=
  hsim.update hR fun c => { c with diags := w :: c.diags }

theorem skipIf {c c' : Bool} (hc : c' = c) : R (s.skipIf c) (t.skipIf c') := by
  rw [hc, State.skipIf_eq, State.skipIf_eq]
  exact hsim.setPc hR (by rw [hsim.pc hR])

theorem withFlag_setReg {c c' : Bool} (hc : c' = c) (x : Reg) {b b' : Byte} (hb : b' = b) :
    R ((s.withFlag c).setReg x b) ((t.withFlag c').setReg x b') :=
  hsim.setReg (hsim.setReg hR VF (congrArg flagByte hc)) x hb

theorem reg_withFlag (c : Bool) (r : Reg) : (t.withFlag c).reg r = (s.withFlag c).reg r :=
  hsim.reg (hsim.setReg hR VF rfl) r

theorem enterFault (c : FaultCause) (n : Addr) {a a' : Addr} (ha : a' = a) :
    R (s.enterFault c n a) (t.enterFault c n a') := by
  rw [ha, State.enterFault, State.enterFault, hsim.code hR]
  exact hsim.update hR fun h => { h with pc := a, faultCause := s.code c, faultPc := a, faultInfo := n }

theorem raise (c : FaultCause) (n : Addr) : R (s.raise c n) (t.raise c n) :=
  hsim.enterFault hR c n (by rw [hsim.pc hR])

theorem loadRegs (n : Nat) : R (loadRegs s n) (loadRegs t n) := by
  induction n with
  | zero => exact hR
  | succ n ih => exact hsim.setReg ih _ (by rw [hsim.mem hR, hsim.dataAddr hR])

theorem retire (w : Opcode) : R (s.retire w) (t.retire w) := by
  rw [State.retire, State.retire, hsim.halted hR]
  split
  · exact hR
  · exact hsim.update hR fun c => { c with opreg := w, dt := tickDown c.dt, st := tickDown c.st }

/-! ### Execute stage and Step -/

omit hsim hR in
/-- The equations of the two execute stages, put together. -/
theorem matched {i : Instr} {u v v' : State} (he : exec i s = .next u) (hs : exec i s = .next v)
    (ht : exec i t = .next v') (hv : R v v') : ∃ u', exec i t = .next u' ∧ R u u' :=
  ⟨v', ht, eq_of_exec he hs ▸ hv⟩

/-- The draw of a CXKK takes related states to related states, where the relation allows that instruction. -/
theorem exec_rnd {x : Reg} {kk : Byte} (hok : ok (.rnd x kk)) {u : State} (he : exec (.rnd x kk) s = .next u) :
    ∃ u', exec (.rnd x kk) t = .next u' ∧ R u u' := by
  obtain ⟨hbyte, hdraw⟩ := hsim.draw hok hR
  exact matched he (Machine.exec_rnd s x kk) (Machine.exec_rnd t x kk) (hsim.setReg hdraw x (by rw [hbyte]))

/-- The scan of an FX0A answers the same on both sides, where the relation allows that instruction. -/
theorem exec_ldVxK {x : Reg} (hok : ok (.ldVxK x)) {u : State} (he : exec (.ldVxK x) s = .next u) :
    ∃ u', exec (.ldVxK x) t = .next u' ∧ R u u' := by
  have hscan := s.lastKeyDown_congr (hsim.key (.inr (.inr hok)) hR) 16
  cases hs : s.lastKeyDown 16 with
  | none =>
    exact matched he (exec_ldVxK_of_none x hs) (exec_ldVxK_of_none x (hscan.trans hs))
      (hsim.setPc hR (by rw [hsim.pc hR]))
  | some k =>
    exact matched he (exec_ldVxK_of_some x hs) (exec_ldVxK_of_some x (hscan.trans hs)) (hsim.setReg hR x rfl)

/-- An execute stage from the one state is matched by the same one from the other. -/
theorem exec {i : Instr} (hok : ok i) {u : State} (he : exec i s = .next u) : ∃ u', exec i t = .next u' ∧ R u u' := by
  cases hf : Machine.faultOf i s with
  | some fault =>
    exact matched he (exec_of_faultOf hf) (exec_of_faultOf ((hsim.faultOf hR i).trans hf)) (hsim.raise hR _ _)
  | none =>
    have hpc := hsim.pc hR
    have hreg := hsim.reg hR
    have hflag := hsim.reg_withFlag hR
    have hindex := hsim.index hR
    have haddr := congrArg BitVec.toNat hindex
    have hsp := congrArg Fin.val (hsim.sp hR)
    cases i <;> simp only [Machine.faultOf, ite_eq_right_iff, reduceCtorEq, imp_false, gt_iff_lt] at hf
    case cls => exact matched he (exec_cls s) (exec_cls t) (hsim.setDisplay hR rfl)
    case ret =>
      have hs : 0 < s.sp.val := by omega
      have ht : 0 < t.sp.val := by omega
      exact matched he (exec_ret_of_pos s hs) (exec_ret_of_pos t ht) (hsim.setPc (hsim.drop hR) (hsim.top hR hs ht))
    case jp nnn => exact matched he (exec_jp s nnn) (exec_jp t nnn) (hsim.setPc hR rfl)
    case call nnn =>
      have hs : s.sp.val < 16 := by omega
      have ht : t.sp.val < 16 := by omega
      have hpush : R (s.push s.pc hs) (t.push t.pc ht) := hpc ▸ hsim.push hR _ hs ht
      exact matched he (exec_call_of_lt s nnn hs) (exec_call_of_lt t nnn ht) (hsim.setPc hpush rfl)
    case seImm x kk => exact matched he (exec_seImm s x kk) (exec_seImm t x kk) (hsim.skipIf hR (by rw [hreg]))
    case sneImm x kk => exact matched he (exec_sneImm s x kk) (exec_sneImm t x kk) (hsim.skipIf hR (by rw [hreg]))
    case seReg x y => exact matched he (exec_seReg s x y) (exec_seReg t x y) (hsim.skipIf hR (by rw [hreg, hreg]))
    case sneReg x y => exact matched he (exec_sneReg s x y) (exec_sneReg t x y) (hsim.skipIf hR (by rw [hreg, hreg]))
    case ldImm x kk => exact matched he (exec_ldImm s x kk) (exec_ldImm t x kk) (hsim.setReg hR x rfl)
    case addImm x kk => exact matched he (exec_addImm s x kk) (exec_addImm t x kk) (hsim.setReg hR x (by rw [hreg]))
    case ldReg x y => exact matched he (exec_ldReg s x y) (exec_ldReg t x y) (hsim.setReg hR x (hreg y))
    case orReg x y => exact matched he (exec_orReg s x y) (exec_orReg t x y) (hsim.setReg hR x (by rw [hreg, hreg]))
    case andReg x y => exact matched he (exec_andReg s x y) (exec_andReg t x y) (hsim.setReg hR x (by rw [hreg, hreg]))
    case xorReg x y => exact matched he (exec_xorReg s x y) (exec_xorReg t x y) (hsim.setReg hR x (by rw [hreg, hreg]))
    case addReg x y =>
      exact matched he (exec_addReg s x y) (exec_addReg t x y)
        (hsim.withFlag_setReg hR (by rw [hreg, hreg]) x (by rw [hreg, hreg]))
    case subReg x y =>
      exact matched he (exec_subReg s x y) (exec_subReg t x y)
        (hsim.withFlag_setReg hR (by rw [hreg, hreg]) x (by rw [hreg, hreg, hflag, hflag]))
    case shr x y =>
      exact matched he (exec_shr s x y) (exec_shr t x y)
        (hsim.withFlag_setReg hR (by rw [hreg]) x (by rw [hreg, hflag]))
    case subnReg x y =>
      exact matched he (exec_subnReg s x y) (exec_subnReg t x y)
        (hsim.withFlag_setReg hR (by rw [hreg, hreg]) x (by rw [hreg, hreg, hflag, hflag]))
    case shl x y =>
      exact matched he (exec_shl s x y) (exec_shl t x y)
        (hsim.withFlag_setReg hR (by rw [hreg]) x (by rw [hreg, hflag]))
    case ldI nnn => exact matched he (exec_ldI s nnn) (exec_ldI t nnn) (hsim.setIndex hR rfl)
    case jpV0 nnn => exact matched he (exec_jpV0 s nnn) (exec_jpV0 t nnn) (hsim.setPc hR (by rw [hreg]))
    case rnd x kk => exact hsim.exec_rnd hR hok he
    case drw x y n =>
      have hdrawn := hsim.drawn hR x y n
      exact matched he (exec_drw_inside x y (by omega)) (exec_drw_inside x y (by omega))
        (hsim.setReg (hsim.setDisplay hR (by rw [hdrawn])) VF (by rw [hdrawn]))
    case skp x =>
      have hkey := hsim.key (.inl hok) hR
      exact matched he (exec_skp_of_le (by omega)) (exec_skp_of_le (by rw [hreg]; omega))
        (hsim.skipIf hR (by rw [hreg, hkey]))
    case sknp x =>
      have hkey := hsim.key (.inr (.inl hok)) hR
      exact matched he (exec_sknp_of_le (by omega)) (exec_sknp_of_le (by rw [hreg]; omega))
        (hsim.skipIf hR (by rw [hreg, hkey]))
    case ldVxDt x => exact matched he (exec_ldVxDt s x) (exec_ldVxDt t x) (hsim.setReg hR x (hsim.delay hR))
    case ldDtVx x => exact matched he (exec_ldDtVx s x) (exec_ldDtVx t x) (hsim.setDelay hR (hreg x))
    case ldStVx x => exact matched he (exec_ldStVx s x) (exec_ldStVx t x) (hsim.setSound hR (hreg x))
    case ldVxK x => exact hsim.exec_ldVxK hR hok he
    case addI x => exact matched he (exec_addI s x) (exec_addI t x) (hsim.setIndex hR (by rw [hreg, hindex]))
    case ldF x => exact matched he (exec_ldF s x) (exec_ldF t x) (hsim.setIndex hR (by rw [hreg]))
    case ldB x =>
      exact matched he (exec_ldB_inside x (by omega)) (exec_ldB_inside x (by omega))
        (hsim.setMem hR (hsim.storeDigits hR x))
    case ldMemVx x =>
      exact matched he (exec_ldMemVx_inside x (by omega)) (exec_ldMemVx_inside x (by omega))
        (hsim.setMem hR (hsim.storeRegs hR _))
    case ldVxMem x =>
      exact matched he (exec_ldVxMem_inside x (by omega)) (exec_ldVxMem_inside x (by omega)) (hsim.loadRegs hR _)

/-- A Step from the one state is matched by a Step from the other. -/
theorem step (hok : ∀ w i, Machine.fetchWord s = some w → decode w = .ok i → ok i) {s' : State}
    (h : step s = .next s') : ∃ t', step t = .next t' ∧ R s' t' := by
  have hhalt := hsim.halted hR
  have hfetch := hsim.fetchWord hR
  cases step_cases h with
  | halted hs e => exact ⟨t, step_halted (hhalt.trans hs), e ▸ hR⟩
  | fetchFault hr hf e =>
    refine ⟨_, step_fetch_fault (hhalt.trans hr) (hfetch.trans hf), ?_⟩
    rw [e, hsim.pc hR]
    exact hsim.enterFault hR _ _ rfl
  | instr w i u hr hf hd he e =>
    obtain ⟨u', he', hRu⟩ := hsim.exec (hsim.advance hR) (hok w i hf hd) he
    exact ⟨_, step_instr (hhalt.trans hr) (hfetch.trans hf) hd he', e ▸ hsim.retire hRu w⟩
  | unknown w err hr hf hd e =>
    exact ⟨_, step_unknown (hhalt.trans hr) (hfetch.trans hf) hd,
      e ▸ hsim.retire (hsim.emitDiag (hsim.advance hR) w) w⟩

end

end Simulates

/-! ### The random input (10_state.md R36) -/

/-- `t` is `s` with the random input `r`, `n`. -/
def WithRandom (r : Option Byte) (n : Nat) (s t : State) : Prop := t = { s with rnd := r, draws := n }

theorem withRandom_simulates (r : Option Byte) (n : Nat) :
    Simulates (fun i => ∀ x kk, i ≠ .rnd x kk) (WithRandom r n) where
  shared := by rintro s _ rfl; rfl
  withShared := by rintro s _ rfl c; rfl
  code := by rintro s _ rfl c; exact s.code_congr rfl c
  spriteOrder := by rintro s _ rfl; rfl
  sp := by rintro s _ rfl; rfl
  top := by rintro s _ rfl h h'; rfl
  push := by rintro s _ rfl a h h'; rfl
  drop := by rintro s _ rfl; rfl
  key := by rintro x - s _ rfl; rfl
  draw := fun {x kk} hok => absurd rfl (hok x kk)

/-- Settles O21: every other instruction keeps the relation between states that differ in the random input alone. -/
theorem onlyRandomReadsTheRandomByte : Obligations.OnlyRandomReadsTheRandomByte := by
  intro s t r n hword h
  have hok : ∀ w i, fetchWord s = some w → decode w = .ok i → ∀ x kk, i ≠ .rnd x kk := by
    rintro w _ hf hd x kk rfl
    exact hword w x kk hf hd
  obtain ⟨_, hstep, rfl⟩ := (withRandom_simulates r n).step rfl hok h
  exact hstep

/-! ### The keypad (10_state.md R35) -/

/-- `t` is `s` with the keypad `key`. -/
def WithKeypad (key : BitVec 16) (s t : State) : Prop := t = { s with key := key }

theorem withKeypad_simulates (key : BitVec 16) :
    Simulates (fun i => ∀ x, i ≠ .skp x ∧ i ≠ .sknp x ∧ i ≠ .ldVxK x) (WithKeypad key) where
  shared := by rintro s _ rfl; rfl
  withShared := by rintro s _ rfl c; rfl
  code := by rintro s _ rfl c; exact s.code_congr rfl c
  spriteOrder := by rintro s _ rfl; rfl
  sp := by rintro s _ rfl; rfl
  top := by rintro s _ rfl h h'; rfl
  push := by rintro s _ rfl a h h'; rfl
  drop := by rintro s _ rfl; rfl
  key := by
    rintro x (hok | hok | hok) <;> obtain ⟨hskp, hsknp, hwait⟩ := hok x
    · exact absurd rfl hskp
    · exact absurd rfl hsknp
    · exact absurd rfl hwait
  draw := by rintro x kk - s _ rfl; exact ⟨rfl, rfl⟩

/-- No Step writes the keypad. -/
theorem step_key {s t : State} (h : step s = .next t) : t.key = s.key := by
  cases step_end h with
  | halted _ e => rw [e]
  | faulted c n _ _ e => rw [e]; rfl
  | executed w i u hw hd hnone he e => rw [e]; exact (exec_advance_frame hnone he).key
  | unknown w err hw hd e => rw [e]

/-- Settles O22: no frame lists the keypad, and all but the key instructions keep the relation between states that differ
in it alone. -/
theorem onlyKeyInstructionsReadTheKeypad : Obligations.OnlyKeyInstructionsReadTheKeypad := by
  intro s t key h
  refine ⟨step_key h, fun hword => ?_⟩
  have hok : ∀ w i, fetchWord s = some w → decode w = .ok i → ∀ x, i ≠ .skp x ∧ i ≠ .sknp x ∧ i ≠ .ldVxK x := by
    intro w i hf hd x
    obtain ⟨hskp, hsknp, hwait⟩ := hword w x hf
    exact ⟨fun e => hskp (e ▸ hd), fun e => hsknp (e ▸ hd), fun e => hwait (e ▸ hd)⟩
  obtain ⟨_, hstep, rfl⟩ := (withKeypad_simulates key).step rfl hok h
  exact hstep

/-! ### The parameters (00_scope.md R7) -/

/-- `t` is `s` with the parameters `p`, which have the sprite bit order and the fault codes of `s`. -/
structure WithParams (p : Config.Params) (s t : State) : Prop where
  rest : t = { s with config := p }
  spriteOrder : p.spriteMsbFirst = s.config.spriteMsbFirst
  faultCodes : p.faultCodes = s.config.faultCodes

theorem withParams_simulates (p : Config.Params) : Simulates (fun _ => True) (WithParams p) where
  shared := by rintro s _ ⟨rfl, -, -⟩; rfl
  withShared := by rintro s _ ⟨rfl, horder, hcodes⟩ c; exact ⟨rfl, horder, hcodes⟩
  code := by
    rintro s _ ⟨rfl, -, hcodes⟩ c
    cases c <;> simp only [State.code, hcodes]
  spriteOrder := by rintro s _ ⟨rfl, horder, -⟩; exact horder
  sp := by rintro s _ ⟨rfl, -, -⟩; rfl
  top := by rintro s _ ⟨rfl, -, -⟩ h h'; rfl
  push := by rintro s _ ⟨rfl, horder, hcodes⟩ a h h'; exact ⟨rfl, horder, hcodes⟩
  drop := by rintro s _ ⟨rfl, horder, hcodes⟩; exact ⟨rfl, horder, hcodes⟩
  key := by rintro x - s _ ⟨rfl, -, -⟩; rfl
  draw := by rintro x kk - s _ ⟨rfl, horder, hcodes⟩; exact ⟨rfl, rfl, horder, hcodes⟩

/-- Settles O31: every Step keeps the relation between states that differ in the other parameters alone. -/
theorem stepReadsTwoParametersAlone : Obligations.StepReadsTwoParametersAlone := by
  intro s t p horder hcodes h
  obtain ⟨_, hstep, rfl, -, -⟩ := (withParams_simulates p).step ⟨rfl, horder, hcodes⟩ (fun _ _ _ _ => trivial) h
  exact hstep

/-! ### Stale stack entries (10_state.md R28, R39) -/

section
variable {s t : State}

/-- Related states are one state with two stacks, which agree below `sp`. -/
theorem sameButStale_iff : SameButStale s t ↔
    ∃ stack : Vector Addr 16, t = { s with stack := stack } ∧ ∀ k : Fin 16, k.val < s.sp.val → stack[k] = s.stack[k] :=
  ⟨fun h => ⟨t.stack, h.rest, h.live⟩, fun ⟨_, e, hlive⟩ => e ▸ ⟨rfl, hlive⟩⟩

/-- The entry a push writes is live on both sides, and no other entry becomes live. -/
theorem SameButStale.push (h : SameButStale s t) (a : Addr) (hs : s.sp.val < 16) (ht : t.sp.val < 16) :
    SameButStale (s.push a hs) (t.push a ht) := by
  obtain ⟨stack, rfl, hlive⟩ := sameButStale_iff.1 h
  refine ⟨rfl, fun k hk => ?_⟩
  rw [State.push_sp] at hk
  simp only [State.push_stack, Fin.getElem_fin, Vector.getElem_set]
  split
  · rfl
  next hne => exact hlive k (by omega)

/-- A pop makes an entry stale. -/
theorem SameButStale.drop (h : SameButStale s t) : SameButStale s.drop t.drop := by
  obtain ⟨stack, rfl, hlive⟩ := sameButStale_iff.1 h
  refine ⟨rfl, fun k hk => hlive k ?_⟩
  rw [State.drop_sp] at hk
  omega

/-- The entry a pop reads is live. -/
theorem SameButStale.top (h : SameButStale s t) (hs : 0 < s.sp.val) (ht : 0 < t.sp.val) : t.top ht = s.top hs := by
  obtain ⟨stack, rfl, hlive⟩ := sameButStale_iff.1 h
  have := s.sp.isLt
  exact hlive ⟨s.sp.val - 1, by omega⟩ (Nat.sub_lt hs Nat.one_pos)

theorem sameButStale_simulates : Simulates (fun _ => True) SameButStale where
  shared h := by obtain ⟨stack, rfl, -⟩ := sameButStale_iff.1 h; rfl
  withShared h c := by obtain ⟨stack, rfl, hlive⟩ := sameButStale_iff.1 h; exact ⟨rfl, hlive⟩
  code h c := by obtain ⟨stack, rfl, -⟩ := sameButStale_iff.1 h; exact State.code_congr _ rfl c
  spriteOrder h := by obtain ⟨stack, rfl, -⟩ := sameButStale_iff.1 h; rfl
  sp h := by obtain ⟨stack, rfl, -⟩ := sameButStale_iff.1 h; rfl
  top h := h.top
  push h := h.push
  drop h := h.drop
  key _ _ _ h := by obtain ⟨stack, rfl, -⟩ := sameButStale_iff.1 h; rfl
  draw _ _ _ h := by obtain ⟨stack, rfl, hlive⟩ := sameButStale_iff.1 h; exact ⟨rfl, rfl, hlive⟩

/-- The host is shown the live entries alone (10_state.md R38). -/
theorem SameButStale.hostView_eq (h : SameButStale s t) : s.hostView = t.hostView := by
  obtain ⟨stack, rfl, hlive⟩ := sameButStale_iff.1 h
  have hstack : s.stack.toList.take s.sp.val = stack.toList.take s.sp.val := by
    apply List.ext_getElem
    · simp
    · intro k hk _
      simp only [List.length_take, Vector.length_toList, lt_min_iff] at hk
      simpa using (hlive ⟨k, hk.2⟩ hk.1).symm
  simp only [State.hostView, hstack, State.spBits_toNat]

end

/-- Settles O23: an entry is pushed before it is popped, so the two states agree on every entry that is read. -/
theorem staleStackEntriesNeverMatter : Obligations.StaleStackEntriesNeverMatter := by
  intro s t h
  exact ⟨h.hostView_eq, fun s' hstep => sameButStale_simulates.step h (fun _ _ _ _ => trivial) hstep⟩

end Sys2Proof.Machine
end
